-- ==== Sys2Proof/Word.lean ====
section
/-! DEFINITION. The words of the PS1 GPU front end: the sizes that cross its ports and that its
memories hold (spec 00_scope.md section 5, 10_state.md R45, 20_memory.md R84). -/

namespace Sys2Proof

/-- A port word, a status word, a control-table entry, a word of system memory (R84, R400). -/
abbrev Word := BitVec 32

/-- One byte of a byte view (R71, R74). -/
abbrev Byte := BitVec 8

/-- One VRAM cell, one 16-bit pixel (R70). -/
abbrev Half := BitVec 16

/-- A chain node address or a next field: a 24-bit byte address (R191, R117). -/
abbrev Addr := BitVec 24

/-- A byte memory: (address, byte) pairs, addresses strictly rising, no byte equal to what an
unlisted address reads as (0). The three memories a transaction touches are held so: VRAM in its
byte view (R71), the system memory `base` (R80) and the save-state image (R119). -/
abbrev Memory := List Host.Cell

end Sys2Proof
end

