-- ==== Sys2Proof/Config.lean ====
section
/-! DEFINITION. The parameters of the block (spec 00_scope.md R6 to R11), the constants the source
fixes (R10), and the free values: constants without a body that stand for the values the spec
declines to give (10_state.md R47 "unspecified", 44_frame_timer.md R251 and R255). -/

namespace Sys2Proof

/-- `GEO.localization` (10_state.md R41): selects the frame rate (44_frame_timer.md R243). -/
inductive Localization where
  | ntsc
  | pal
deriving DecidableEq, Repr

/-- The four entries of the raw-info table (10_state.md R25). -/
inductive RawEntry where
  | texwin
  | drawstart
  | drawend
  | drawoff
deriving DecidableEq, Repr

/-- The direction operand of `DEFINE_AREA`: `input` is VRAM to host, `output` host to VRAM
(30_encoding.md R101, 00_scope.md glossary). -/
inductive Direction where
  | input
  | output
deriving DecidableEq, Repr

/-- The clock source of the frame timer (10_state.md R44): the coarse timer counts milliseconds,
the high-resolution counter runs at its own frequency (44_frame_timer.md R241). -/
inductive ClockSource where
  | coarse
  | highResolution (frequency : Nat)
deriving DecidableEq, Repr

/-- The opcode numbers `OP_*` (R11, 30_encoding.md R104, D3). -/
structure Opcodes where
  reset : BitVec 8
  toggleDisplay : BitVec 8
  setTransferMode : BitVec 8
  setDisplayPosition : BitVec 8
  setDisplayWidth : BitVec 8
  setDisplayHeight : BitVec 8
  setDisplayInfo : BitVec 8
  gpuRequest : BitVec 8
deriving DecidableEq, Repr

/-- The GpuRequest sub-codes `REQ_*` (R11, 30_encoding.md R112, D24). -/
structure SubCodes where
  texwin : BitVec 8
  drawstart : BitVec 8
  drawend : BitVec 8
  drawoffA : BitVec 8
  drawoffB : BitVec 8
  gputype : BitVec 8
  biosaddrA : BitVec 8
  biosaddrB : BitVec 8
deriving DecidableEq, Repr

/-- The field positions `STAT_*` (R11, 10_state.md R31, D5): the lowest bit of each named field. -/
structure StatLayout where
  oddLines : Nat
  dmaDirection : Nat
  readyForCommands : Nat
  readyForVram : Nat
  idle : Nat
  displayDisabled : Nat
  interlaced : Nat
  rgb24 : Nat
  pal : Nat
  doubleHeight : Nat
  widthBits : Nat
  maskEnabled : Nat
  maskDrawn : Nat
  drawingAllowed : Nat
  dither : Nat
deriving DecidableEq, Repr

/-- The parameters and configuration inputs, read-only to the block (00_scope.md R6 to R9, R11). -/
structure Params where
  /-- `ZINC` (R7): also fixes `VRAM_KB` and `ADDR_MASK`. -/
  zinc : Bool
  /-- `ADDR_MASK_STD` (R8). -/
  addrMaskStd : Addr
  /-- `CHAIN_ITER_CAP` (R8). -/
  chainIterCap : Nat
  /-- `OP_*`, `REQ_*` and `STAT_*` (R11). -/
  ops : Opcodes
  reqs : SubCodes
  statLayout : StatLayout
  /-- `MEM_WORDS` (R11). -/
  memWords : Nat
  /-- `BUSY_SEQ_INIT` (R11, D9). -/
  busySeqInit : Nat
  /-- `GPU_TYPE_VALUE` (R11, D24). -/
  gpuTypeValue : Word
  /-- `BIOS_ADDR_VALUE` (R11, D24). -/
  biosAddrValue : Word
  /-- `DISP_WIDTH[0..7]` (R11, D22). -/
  dispWidth : Vector Nat 8
  /-- `POS_Y_BITS` (R11, D19). -/
  posYBits : Nat
  /-- `FPS_NTSC` (R11, D34); the next five likewise. -/
  fpsNtsc : Rat
  fpsNtscLace : Rat
  fpsPal : Rat
  fpsPalLace : Rat
  fpsNtscFix : Rat
  fpsPalFix : Rat
  /-- `clock_source` (10_state.md R44). -/
  clockSource : ClockSource
  /-- The five flags of the bug-fix bitmask (R9); three of them are read by no rule. -/
  fixOddEvenBit : Bool
  fixNoFpsCounter : Bool
  fixDispWidths : Bool
  fixFpsLimit : Bool
  fixFpsOldSkip : Bool
  /-- The frame-skip and limit flags and the rate inputs (R9). -/
  frameLimitEnabled : Bool
  frameSkipEnabled : Bool
  autoDetectRate : Bool
  fixedFps : Rat
  ecoMode : Bool
  fpsDisplayEnabled : Bool
  /-- Settings named by the source that no rule reads (R9, D42). -/
  vsyncSetting : Bool
  windowWidth : Nat
  windowHeight : Nat
  fullscreenWidth : Nat
  fullscreenHeight : Nat
deriving DecidableEq, Repr

namespace Config

/-- `STAT_INIT` (R10). -/
def statInit : Word := 0x14802000

/-- `CHAIN_END`, the sentinel of a next field (R10). -/
def chainEnd : Addr := 0xFFFFFF

/-- `FRAME_MAXLACE` (R10). -/
def frameMaxLace : Nat := 16

/-- `FREEZE_VERSION` (R10). -/
def freezeVersion : Word := 1

/-- The highest save slot (R10). -/
def maxSaveSlot : Nat := 8

/-- The order in which `FREEZE SET` replays the control table (R10). -/
def replayOrder : List (BitVec 8) := [0, 1, 2, 3, 8, 6, 7, 5, 4]

/-- Cells in a VRAM row (R6, `VRAM_COLS`). -/
def vramCols : Nat := 1024

/-- The two unassigned opcodes that the replay list names and that have rows of their own in the
opcode table (R113). -/
def opUnassigned1 : BitVec 8 := 0x01
def opUnassigned2 : BitVec 8 := 0x02

/-- A free word: the value of `GDATA` after `INIT`, which no rule gives (10_state.md R23, R47; DESIGN
CHOICE, safe: log entry 8). -/
opaque freeWord : Nat → Word

/-- A free number of ticks: how far a clock reading nobody supplied lies past the one before it
(44_frame_timer.md R240), or past the threshold a hold waited for (R251), and the three timer
registers that `INIT` leaves open (70_reset_and_hazards.md R303). -/
opaque freeTicks : Nat → Nat

/-- Numerator and denominator, each less one, of a free positive rational. -/
opaque freeRateNum : Nat → Nat
opaque freeRateDen : Nat → Nat

/-- A free positive rational: `measured_fps` after two measurements in one tick (44_frame_timer.md
R255) and the two rates that `INIT` leaves open (10_state.md R47). -/
def freeRate (n : Nat) : Rat := ((freeRateNum n : Rat) + 1) / ((freeRateDen n : Rat) + 1)

end Config

/-- `VRAM_KB` (R6): 1024 exactly in Zinc mode (R7). -/
def Params.vramKb (p : Params) : Nat := if p.zinc then 1024 else 512

/-- `VRAM_ROWS` (R6). -/
def Params.vramRows (p : Params) : Nat := p.vramKb

/-- `VRAM_CELLS` (R6). -/
def Params.vramCells (p : Params) : Nat := p.vramKb * 1024

/-- `VRAM_BYTES` (R6). -/
def Params.vramBytes (p : Params) : Nat := p.vramKb * 2 * 1024

/-- `ADDR_MASK` (R7). -/
def Params.addrMask (p : Params) : Addr := if p.zinc then 0xFFFFFF else p.addrMaskStd

/-- `TICKS_PER_SECOND` (R11, 44_frame_timer.md R241). -/
def Params.ticksPerSecond (p : Params) : Nat :=
  match p.clockSource with
  | .coarse => 1000
  | .highResolution f => f

/-- The default opcode numbers (30_encoding.md R104; PRESUMED by the spec's own mark, log entry 4). -/
def Opcodes.defaults : Opcodes where
  reset := 0x00
  toggleDisplay := 0x03
  setTransferMode := 0x04
  setDisplayPosition := 0x05
  setDisplayWidth := 0x06
  setDisplayHeight := 0x07
  setDisplayInfo := 0x08
  gpuRequest := 0x10

/-- The default sub-codes (30_encoding.md R112; PRESUMED by the spec's own mark, log entry 4). -/
def SubCodes.defaults : SubCodes where
  texwin := 0x02
  drawstart := 0x03
  drawend := 0x04
  drawoffA := 0x05
  drawoffB := 0x06
  gputype := 0x07
  biosaddrA := 0x08
  biosaddrB := 0x0F

/-- The default layout of `STAT` (10_state.md R31; PRESUMED by the spec's own mark, log entry 4). -/
def StatLayout.defaults : StatLayout where
  oddLines := 31
  dmaDirection := 29
  readyForCommands := 28
  readyForVram := 27
  idle := 26
  displayDisabled := 23
  interlaced := 22
  rgb24 := 21
  pal := 20
  doubleHeight := 19
  widthBits := 16
  maskEnabled := 12
  maskDrawn := 11
  drawingAllowed := 10
  dither := 9

/-- The parameters at their defaults (R8, R11, 95_test_vectors.md) for a given `ZINC`; the inputs to
which no file gives a default take the values of log entry 12 (DESIGN CHOICE, unsafe). -/
def Params.defaults (zinc : Bool) : Params where
  zinc := zinc
  addrMaskStd := 0x1FFFFC
  chainIterCap := if zinc then 0x1000000 else 0x200000
  ops := Opcodes.defaults
  reqs := SubCodes.defaults
  statLayout := StatLayout.defaults
  memWords := if zinc then 0x400000 else 0x80000
  busySeqInit := 4
  gpuTypeValue := 0x00000002
  biosAddrValue := 0xBFC03720
  dispWidth := #v[256, 320, 512, 640, 368, 384, 512, 640]
  posYBits := if zinc then 10 else 9
  fpsNtsc := 338688000 / 5661075
  fpsNtscLace := 3386880000 / 56503125
  fpsPal := 33868800 / 680595
  fpsPalLace := 3386880000 / 67734375
  fpsNtscFix := 5994 / 100
  fpsPalFix := 50
  clockSource := .coarse
  fixOddEvenBit := false
  fixNoFpsCounter := false
  fixDispWidths := false
  fixFpsLimit := false
  fixFpsOldSkip := false
  frameLimitEnabled := false
  frameSkipEnabled := false
  autoDetectRate := true
  fixedFps := 60
  ecoMode := false
  fpsDisplayEnabled := false
  vsyncSetting := false
  windowWidth := 640
  windowHeight := 480
  fullscreenWidth := 640
  fullscreenHeight := 480

end Sys2Proof
end

