-- ==== Sys2Proof/Syntax.lean ====
section
/-! DEFINITION. The transactions of the block: one constructor per row of spec/opcode_table.json
(30_encoding.md R100, R101, R104, R112, R115, R117, R118). A status-port command keeps every bit of
its word, ignored bits included, because the whole word goes into the control table (R114, R130). -/

namespace Sys2Proof

inductive Instr where
  /-- `ws.reset`, Reset (R105, R141). -/
  | wsReset (param : BitVec 24)
  /-- `ws.display`, ToggleDisplay (R106, R147): bits 23:1 ignored, `off` = bit 0. -/
  | wsDisplay (ignored : BitVec 23) (off : BitVec 1)
  /-- `ws.mode`, SetTransferMode (R107, R143): bits 23:2 ignored, `m` = bits 1:0. -/
  | wsMode (ignored : BitVec 22) (m : BitVec 2)
  /-- `ws.pos`, SetDisplayPosition (R108, R144): `yField` = bits 23:10, whose low `POS_Y_BITS` bits
  are Y; `x` = bits 9:0. -/
  | wsPos (yField : BitVec 14) (x : BitVec 10)
  /-- `ws.hrange`, SetDisplayWidth (R109, R145): `right` = bits 23:12, `left` = bits 11:0. -/
  | wsHrange (right : BitVec 12) (left : BitVec 12)
  /-- `ws.vrange`, SetDisplayHeight (R110, R146): bits 23:20 ignored, `bottom` = 19:10, `top` = 9:0. -/
  | wsVrange (ignored : BitVec 4) (bottom : BitVec 10) (top : BitVec 10)
  /-- `ws.info`, SetDisplayInfo (R111, R142): bits 23:8 and bit 7 ignored, then bits 6, 5, 4, 3, 2
  and 1:0. -/
  | wsInfo (ignored : BitVec 16) (ignored7 : BitVec 1) (presetHi : BitVec 1) (lace : BitVec 1)
      (rgb24 : BitVec 1) (pal : BitVec 1) (dbl : BitVec 1) (presetLo : BitVec 2)
  /-- `ws.req.*`, GpuRequest (R112, R148 to R153): bits 23:8 ignored, the sub-code in bits 7:0. -/
  | wsReqTexwin (ignored : BitVec 16)
  | wsReqDrawstart (ignored : BitVec 16)
  | wsReqDrawend (ignored : BitVec 16)
  | wsReqDrawoffA (ignored : BitVec 16)
  | wsReqDrawoffB (ignored : BitVec 16)
  | wsReqGputype (ignored : BitVec 16)
  | wsReqBiosaddrA (ignored : BitVec 16)
  | wsReqBiosaddrB (ignored : BitVec 16)
  | wsReqOther (ignored : BitVec 16) (sub : BitVec 8)
  /-- `ws.raw.01`, `ws.raw.02`: unassigned opcodes 1 and 2 (R113, R140). -/
  | wsRaw01 (param : BitVec 24)
  | wsRaw02 (param : BitVec 24)
  /-- `ws.raw`: every other unassigned opcode (R113, R140). -/
  | wsRaw (op : BitVec 8) (param : BitVec 24)
  /-- `wd.pixels`, `wd.normal`: a word written to the data port, in the form `OUT_MODE` selects
  (R115, R175, R179). -/
  | wdPixels (hi : Half) (lo : Half)
  | wdNormal (w : Word)
  /-- `rd.pixels`, `rd.reply`: a word read from the data port, in the form `IN_MODE` selects
  (R115, R167, R172). -/
  | rdPixels
  | rdReply
  /-- `chain.node`: a walk that stands at the node at byte address `node`, whose header word holds
  `count` and `next` (R117, R193). -/
  | chainNode (node : Addr) (count : BitVec 8) (next : Addr)
  /-- `chain.end`: the same for a header whose next field is the sentinel (R192). -/
  | chainEnd (node : Addr) (count : BitVec 8)
  /-- `frz.set`, `frz.get`, `frz.info`, `frz.other`: `FREEZE` with its mode argument (R118). -/
  | frzSet
  | frzGet
  | frzInfo
  | frzOther (mode : Word)
  /-- The host transactions of R100. -/
  | init (allocOk : Bool)
  | shutdown
  | openPort
  | closePort
  | rs
  | rd
  | rdm (n : Word)
  | wd (w : Word)
  | wdm (ws : List Word)
  | chain (start : Word)
  | frz (mode : Word)
  | vsync
  /-- The back-end calls of R101; the four operands of `DEFINE_AREA` are two's-complement integers. -/
  | areaIn (x y w h : Word)
  | areaOut (x y w h : Word)
  | kick
  | statSet (m : Word)
  | statClr (m : Word)
  | infoStore (e : RawEntry) (v : Word)
deriving DecidableEq, Repr

end Sys2Proof
end

