-- ==== Sys2Proof/WellFormed.lean ====
section
/-! DEFINITION. Which terms of `Instr` are transactions: the catch-all rows of the opcode table
match only what no other row matches (30_encoding.md section 1, the rows' priorities). -/

namespace Sys2Proof

/-- The eight assigned opcodes (R104). -/
def Opcodes.numbers (o : Opcodes) : List (BitVec 8) :=
  [o.reset, o.toggleDisplay, o.setTransferMode, o.setDisplayPosition, o.setDisplayWidth,
   o.setDisplayHeight, o.setDisplayInfo, o.gpuRequest]

/-- The sub-codes that have a row of their own (R112). -/
def SubCodes.numbers (r : SubCodes) : List (BitVec 8) :=
  [r.texwin, r.drawstart, r.drawend, r.drawoffA, r.drawoffB, r.gputype, r.biosaddrA, r.biosaddrB]

/-- The code parameters are distinct, but that the two numbers of an alias pair may be one (D3,
93_implementation_defined.md U20; log entry 23). -/
def codesOk (p : Params) : Bool :=
  let r := p.reqs
  decide p.ops.numbers.Nodup
    && decide [r.texwin, r.drawstart, r.drawend, r.drawoffA, r.gputype, r.biosaddrA].Nodup
    && decide [r.texwin, r.drawstart, r.drawend, r.drawoffB, r.gputype, r.biosaddrB].Nodup
    && r.drawoffA != r.biosaddrB && r.drawoffB != r.biosaddrA

/-- The mode values that have a row of their own (R118): SET, GET, INFO. -/
def assignedModes : List Word := [0, 1, 2]

/-- A term stands for a transaction when its catch-all operand is not one of another row's, a node
that is not the last has a next field other than the sentinel (R117), and a chunk is no longer than
its 32-bit count can say (log entry 3). Which numbers are assigned is a matter of the parameters. -/
def Instr.wellFormed (p : Params) : Instr → Bool
  | .wsReqOther _ sub => !p.reqs.numbers.contains sub
  | .wsReqDrawoffB _ => p.reqs.drawoffB != p.reqs.drawoffA
  | .wsReqBiosaddrB _ => p.reqs.biosaddrB != p.reqs.biosaddrA
  | .wsRaw01 _ => !p.ops.numbers.contains Config.opUnassigned1
  | .wsRaw02 _ => !p.ops.numbers.contains Config.opUnassigned2
  | .wsRaw op _ =>
    !(p.ops.numbers ++ [Config.opUnassigned1, Config.opUnassigned2]).contains op
  | .frzOther mode => !assignedModes.contains mode
  | .chainNode _ _ next => next != Config.chainEnd
  | .wdm ws => decide (ws.length < 2 ^ 32)
  | .wsReset _ | .wsDisplay _ _ | .wsMode _ _ | .wsPos _ _ | .wsHrange _ _ | .wsVrange _ _ _
  | .wsInfo _ _ _ _ _ _ _ _ | .wsReqTexwin _ | .wsReqDrawstart _ | .wsReqDrawend _
  | .wsReqDrawoffA _ | .wsReqGputype _ | .wsReqBiosaddrA _ | .wdPixels _ _ | .wdNormal _
  | .rdPixels | .rdReply | .chainEnd _ _ | .frzSet | .frzGet | .frzInfo | .init _ | .shutdown
  | .openPort | .closePort | .rs | .rd | .rdm _ | .wd _ | .chain _ | .frz _ | .vsync | .areaIn _ _ _ _
  | .areaOut _ _ _ _ | .kick | .statSet _ | .statClr _ | .infoStore _ _ => true

end Sys2Proof
end

