-- ==== Sys2Proof/Decode.lean ====
section
/-! DEFINITION. From words to transactions and back. A status-port word is read as 30_encoding.md
R103 to R113 lay it out, a chain header as R117, a freeze mode as R118. What the spec leaves without
bits (which port or entry point is used: R100, R101) stands in a selector word of the model's own
that follows the port word (log entry 3); selector 0 is a status-port write. -/

namespace Sys2Proof

/-- Why a packet of words is no transaction. -/
inductive DecodeError where
  /-- Fewer than two words: no selector. -/
  | shortPacket
  /-- The selector names no port and no entry point. -/
  | unknownSelector
  /-- An operand word holds a value the selector has no use for. -/
  | badOperand
  /-- The packet is longer or shorter than its selector asks. -/
  | badLength
deriving DecidableEq, Repr

/-! ## The status-port word (R103 to R113) -/

/-- `op`, bits 31:24 (R103). -/
def opcodeOf (w : Word) : BitVec 8 := w.extractLsb' 24 8

/-- `param`, bits 23:0 (R103). -/
def paramOf (w : Word) : BitVec 24 := w.extractLsb' 0 24

/-- A GpuRequest word (R112): the sub-code selects the row, by the parameters `REQ_*`. -/
def decodeRequest (p : Params) (w : Word) : Instr :=
  let sub : BitVec 8 := w.extractLsb' 0 8
  let ignored : BitVec 16 := w.extractLsb' 8 16
  if sub = p.reqs.texwin then .wsReqTexwin ignored
  else if sub = p.reqs.drawstart then .wsReqDrawstart ignored
  else if sub = p.reqs.drawend then .wsReqDrawend ignored
  else if sub = p.reqs.drawoffA then .wsReqDrawoffA ignored
  else if sub = p.reqs.drawoffB then .wsReqDrawoffB ignored
  else if sub = p.reqs.gputype then .wsReqGputype ignored
  else if sub = p.reqs.biosaddrA then .wsReqBiosaddrA ignored
  else if sub = p.reqs.biosaddrB then .wsReqBiosaddrB ignored
  else .wsReqOther ignored sub

/-- A status-port word: total, every word is a command (R104, R113, R131). The opcode numbers are the
parameters `OP_*`. -/
def decodeStatus (p : Params) (w : Word) : Instr :=
  let op := opcodeOf w
  if op = p.ops.reset then .wsReset (paramOf w)
  else if op = p.ops.toggleDisplay then .wsDisplay (w.extractLsb' 1 23) (w.extractLsb' 0 1)
  else if op = p.ops.setTransferMode then .wsMode (w.extractLsb' 2 22) (w.extractLsb' 0 2)
  else if op = p.ops.setDisplayPosition then .wsPos (w.extractLsb' 10 14) (w.extractLsb' 0 10)
  else if op = p.ops.setDisplayWidth then .wsHrange (w.extractLsb' 12 12) (w.extractLsb' 0 12)
  else if op = p.ops.setDisplayHeight then
    .wsVrange (w.extractLsb' 20 4) (w.extractLsb' 10 10) (w.extractLsb' 0 10)
  else if op = p.ops.setDisplayInfo then
    .wsInfo (w.extractLsb' 8 16) (w.extractLsb' 7 1) (w.extractLsb' 6 1) (w.extractLsb' 5 1)
      (w.extractLsb' 4 1) (w.extractLsb' 3 1) (w.extractLsb' 2 1) (w.extractLsb' 0 2)
  else if op = p.ops.gpuRequest then decodeRequest p w
  else if op = Config.opUnassigned1 then .wsRaw01 (paramOf w)
  else if op = Config.opUnassigned2 then .wsRaw02 (paramOf w)
  else .wsRaw op (paramOf w)

/-! ## The other forms -/

/-- `count` of a chain header, bits 31:24 (R117). -/
def headerCount (hdr : Word) : BitVec 8 := hdr.extractLsb' 24 8

/-- `next` of a chain header, bits 23:0 (R117). -/
def headerNext (hdr : Word) : Addr := hdr.extractLsb' 0 24

/-- A chain header word at node address `node`: its next field says whether it is the last (R192). -/
def decodeHeader (hdr : Word) (node : Addr) : Instr :=
  if headerNext hdr = Config.chainEnd then .chainEnd node (headerCount hdr)
  else .chainNode node (headerCount hdr) (headerNext hdr)

/-- The `mode` argument of `FREEZE` (R118). -/
def decodeMode (mode : Word) : Instr :=
  if mode = 0 then .frzSet
  else if mode = 1 then .frzGet
  else if mode = 2 then .frzInfo
  else .frzOther mode

/-- The raw-info entry an operand word of `INFO_STORE` names. The four entries are R139's; their numbers
0 to 3 are the model's (DESIGN CHOICE, safe: log entry 3). -/
def decodeEntry (e : Word) : Option RawEntry :=
  if e = 0 then some .texwin
  else if e = 1 then some .drawstart
  else if e = 2 then some .drawend
  else if e = 3 then some .drawoff
  else none

/-- A transaction without operand words. -/
def alone (ops : List Word) (i : Instr) : Except DecodeError Instr :=
  if ops = [] then .ok i else .error .badLength

/-- A transaction without any operand: the port word is 0 (DESIGN CHOICE, safe: log entry 3). -/
def bare (w : Word) (ops : List Word) (i : Instr) : Except DecodeError Instr :=
  if w = 0 then alone ops i else .error .badOperand

/-- The transaction a selector, a port word and operand words stand for. -/
def decodeSelected (p : Params) (sel : Nat) (w : Word) (ops : List Word) : Except DecodeError Instr :=
  match sel with
  | 0 => alone ops (decodeStatus p w)
  | 1 => alone ops (.wdPixels (w.extractLsb' 16 16) (w.extractLsb' 0 16))
  | 2 => alone ops (.wdNormal w)
  | 3 => bare w ops .rdPixels
  | 4 => bare w ops .rdReply
  | 5 =>
    match ops with
    | [a] =>
      if a.extractLsb' 24 8 = 0 then .ok (decodeHeader w (a.extractLsb' 0 24))
      else .error .badOperand
    | [] => .error .badLength
    | _ :: _ :: _ => .error .badLength
  | 6 => alone ops (decodeMode w)
  | 7 =>
    if w = 0 then alone ops (.init false)
    else if w = 1 then alone ops (.init true)
    else .error .badOperand
  | 8 => bare w ops .shutdown
  | 9 => bare w ops .openPort
  | 10 => bare w ops .closePort
  | 11 => bare w ops .rs
  | 12 => bare w ops .rd
  | 13 => alone ops (.rdm w)
  | 14 => alone ops (.wd w)
  | 15 => if w.toNat = ops.length then .ok (.wdm ops) else .error .badLength
  | 16 => alone ops (.chain w)
  | 17 => alone ops (.frz w)
  | 18 => bare w ops .vsync
  | 19 =>
    match ops with
    | [y, wd, h] => .ok (.areaIn w y wd h)
    | [] | [_] | [_, _] | _ :: _ :: _ :: _ :: _ => .error .badLength
  | 20 =>
    match ops with
    | [y, wd, h] => .ok (.areaOut w y wd h)
    | [] | [_] | [_, _] | _ :: _ :: _ :: _ :: _ => .error .badLength
  | 21 => bare w ops .kick
  | 22 => alone ops (.statSet w)
  | 23 => alone ops (.statClr w)
  | 24 =>
    match ops with
    | [e] =>
      match decodeEntry e with
      | some entry => .ok (.infoStore entry w)
      | none => .error .badOperand
    | [] => .error .badLength
    | _ :: _ :: _ => .error .badLength
  | _ => .error .unknownSelector

/-- The transaction of a packet under the given parameters, or why there is none: total on any words. -/
def decode (p : Params) : List Word → Except DecodeError Instr
  | w :: sel :: ops => decodeSelected p sel.toNat w ops
  | [_] => .error .shortPacket
  | [] => .error .shortPacket

/-! ## The encoder -/

/-- A GpuRequest word (R112). -/
def requestWord (p : Params) (ignored : BitVec 16) (sub : BitVec 8) : Word :=
  p.ops.gpuRequest ++ ignored ++ sub

/-- A Reset word (R105). -/
def resetWord (p : Params) (param : BitVec 24) : Word := p.ops.reset ++ param

/-- A ToggleDisplay word (R106). -/
def displayWord (p : Params) (ignored : BitVec 23) (off : BitVec 1) : Word :=
  p.ops.toggleDisplay ++ ignored ++ off

/-- A SetTransferMode word (R107). -/
def modeWord (p : Params) (ignored : BitVec 22) (m : BitVec 2) : Word :=
  p.ops.setTransferMode ++ ignored ++ m

/-- A SetDisplayPosition word (R108). -/
def posWord (p : Params) (yField : BitVec 14) (x : BitVec 10) : Word :=
  p.ops.setDisplayPosition ++ yField ++ x

/-- A SetDisplayWidth word (R109). -/
def hrangeWord (p : Params) (right left : BitVec 12) : Word := p.ops.setDisplayWidth ++ right ++ left

/-- A SetDisplayHeight word (R110). -/
def vrangeWord (p : Params) (ignored : BitVec 4) (bottom top : BitVec 10) : Word :=
  p.ops.setDisplayHeight ++ ignored ++ bottom ++ top

/-- A SetDisplayInfo word (R111). -/
def infoWord (p : Params) (ignored : BitVec 16) (ignored7 presetHi lace rgb24 pal dbl : BitVec 1)
    (presetLo : BitVec 2) : Word :=
  p.ops.setDisplayInfo ++ ignored ++ ignored7 ++ presetHi ++ lace ++ rgb24 ++ pal ++ dbl
    ++ presetLo

/-- A word with an unassigned opcode (R113). -/
def rawWord (op : BitVec 8) (param : BitVec 24) : Word := op ++ param

/-- A chain header word (R117). -/
def headerWord (count : BitVec 8) (next : Addr) : Word := count ++ next

/-- The operand word of a raw-info entry: the model's numbers (DESIGN CHOICE, safe: log entry 3). -/
def entryWord : RawEntry → Word
  | .texwin => 0
  | .drawstart => 1
  | .drawend => 2
  | .drawoff => 3

/-- A node address as an operand word (DESIGN CHOICE, safe: log entry 3). -/
def nodeWord (node : Addr) : Word := (0 : BitVec 8) ++ node

/-- The words of a transaction under the given parameters. -/
def encode (p : Params) : Instr → List Word
  | .wsReset param => [resetWord p param, 0]
  | .wsDisplay ignored off => [displayWord p ignored off, 0]
  | .wsMode ignored m => [modeWord p ignored m, 0]
  | .wsPos yField x => [posWord p yField x, 0]
  | .wsHrange right left => [hrangeWord p right left, 0]
  | .wsVrange ignored bottom top => [vrangeWord p ignored bottom top, 0]
  | .wsInfo ignored ignored7 presetHi lace rgb24 pal dbl presetLo =>
    [infoWord p ignored ignored7 presetHi lace rgb24 pal dbl presetLo, 0]
  | .wsReqTexwin ignored => [requestWord p ignored p.reqs.texwin, 0]
  | .wsReqDrawstart ignored => [requestWord p ignored p.reqs.drawstart, 0]
  | .wsReqDrawend ignored => [requestWord p ignored p.reqs.drawend, 0]
  | .wsReqDrawoffA ignored => [requestWord p ignored p.reqs.drawoffA, 0]
  | .wsReqDrawoffB ignored => [requestWord p ignored p.reqs.drawoffB, 0]
  | .wsReqGputype ignored => [requestWord p ignored p.reqs.gputype, 0]
  | .wsReqBiosaddrA ignored => [requestWord p ignored p.reqs.biosaddrA, 0]
  | .wsReqBiosaddrB ignored => [requestWord p ignored p.reqs.biosaddrB, 0]
  | .wsReqOther ignored sub => [requestWord p ignored sub, 0]
  | .wsRaw01 param => [rawWord Config.opUnassigned1 param, 0]
  | .wsRaw02 param => [rawWord Config.opUnassigned2 param, 0]
  | .wsRaw op param => [rawWord op param, 0]
  | .wdPixels hi lo => [hi ++ lo, 1]
  | .wdNormal w => [w, 2]
  | .rdPixels => [0, 3]
  | .rdReply => [0, 4]
  | .chainNode node count next => [headerWord count next, 5, nodeWord node]
  | .chainEnd node count => [headerWord count Config.chainEnd, 5, nodeWord node]
  | .frzSet => [0, 6]
  | .frzGet => [1, 6]
  | .frzInfo => [2, 6]
  | .frzOther mode => [mode, 6]
  | .init allocOk => [if allocOk then 1 else 0, 7]
  | .shutdown => [0, 8]
  | .openPort => [0, 9]
  | .closePort => [0, 10]
  | .rs => [0, 11]
  | .rd => [0, 12]
  | .rdm n => [n, 13]
  | .wd w => [w, 14]
  | .wdm ws => BitVec.ofNat 32 ws.length :: 15 :: ws
  | .chain start => [start, 16]
  | .frz mode => [mode, 17]
  | .vsync => [0, 18]
  | .areaIn x y w h => [x, 19, y, w, h]
  | .areaOut x y w h => [x, 20, y, w, h]
  | .kick => [0, 21]
  | .statSet m => [m, 22]
  | .statClr m => [m, 23]
  | .infoStore e v => [v, 24, entryWord e]

/-! ## Words numbered as the opcode table numbers them -/

/-- `n` words of 32 bits, the least significant first. -/
def splitWords : Nat → Nat → List Word
  | 0, _ => []
  | n + 1, w => BitVec.ofNat 32 w :: splitWords n (w / 2 ^ 32)

/-- The packet of an instruction whose low `nbits` bits are `w` and whose other bits are 0: the port
word, then the selector word (0, a status-port write, when the table gives it no bits). -/
def tablePacket (nbits w : Nat) : List Word :=
  splitWords (max 2 ((nbits + 31) / 32)) (w % 2 ^ nbits)

/-- What the decoder reads from an instruction given as the opcode table gives it: under the default
parameters, whose numbers are the table's. -/
def decodeTableWord (nbits w : Nat) : Option Instr :=
  match decode (Params.defaults false) (tablePacket nbits w) with
  | .ok i => some i
  | .error _ => none

end Sys2Proof
end

