-- ==== Sys2Proof/Machine/Flags.lean ====
section
/-! DEFINITION. The status register: its fifteen named fields and the five primitive operations
(10_state.md R30 to R34, R42). The block's flags are these fields; no arithmetic sets one. -/

namespace Sys2Proof.Machine

/-- The named fields of `STAT` (R31). -/
inductive StatField where
  | oddLines
  | dmaDirection
  | readyForCommands
  | readyForVram
  | idle
  | displayDisabled
  | interlaced
  | rgb24
  | pal
  | doubleHeight
  | widthBits
  | maskEnabled
  | maskDrawn
  | drawingAllowed
  | dither
deriving DecidableEq, Repr

/-- The lowest bit of a field (R31): the parameters `STAT_*`. -/
def fieldLo (l : StatLayout) : StatField → Nat
  | .oddLines => l.oddLines
  | .dmaDirection => l.dmaDirection
  | .readyForCommands => l.readyForCommands
  | .readyForVram => l.readyForVram
  | .idle => l.idle
  | .displayDisabled => l.displayDisabled
  | .interlaced => l.interlaced
  | .rgb24 => l.rgb24
  | .pal => l.pal
  | .doubleHeight => l.doubleHeight
  | .widthBits => l.widthBits
  | .maskEnabled => l.maskEnabled
  | .maskDrawn => l.maskDrawn
  | .drawingAllowed => l.drawingAllowed
  | .dither => l.dither

/-- How many bits a field has (R31: two fields are wider than one bit). -/
def fieldWidth : StatField → Nat
  | .dmaDirection => 2
  | .widthBits => 3
  | .oddLines | .readyForCommands | .readyForVram | .idle | .displayDisabled | .interlaced
  | .rgb24 | .pal | .doubleHeight | .maskEnabled | .maskDrawn | .drawingAllowed | .dither => 1

/-- The bits of a field, moved down to bit 0. -/
def fieldOnes : StatField → Word
  | .dmaDirection => 3
  | .widthBits => 7
  | .oddLines | .readyForCommands | .readyForVram | .idle | .displayDisabled | .interlaced
  | .rgb24 | .pal | .doubleHeight | .maskEnabled | .maskDrawn | .drawingAllowed | .dither => 1

/-- The mask of a field (R31). -/
def fieldMask (l : StatLayout) (f : StatField) : Word := fieldOnes f <<< fieldLo l f

/-- `set(flags)` (R34). -/
def statOr (st flags : Word) : Word := st ||| flags

/-- `clear(flags)` (R34). -/
def statAndNot (st flags : Word) : Word := st &&& ~~~flags

/-- `test(flags)` (R34). -/
def statTest (st flags : Word) : Bool := (st &&& flags) != 0

/-- `raw()` (R34). -/
def statRaw (st : Word) : Word := st

/-- `replace(v)` (R34). -/
def statReplace (_st v : Word) : Word := v

/-- `STAT.Field` (00_scope.md section 5): the field's value, zero-extended. -/
def getField (l : StatLayout) (f : StatField) (st : Word) : Word :=
  (st >>> fieldLo l f) &&& fieldOnes f

/-- `STAT.Field <- v` (00_scope.md section 5): writes only that field. -/
def putField (l : StatLayout) (f : StatField) (v st : Word) : Word :=
  statOr (statAndNot st (fieldMask l f)) ((v &&& fieldOnes f) <<< fieldLo l f)

/-- A one-bit value. -/
def bitWord (b : Bool) : Word := if b then 1 else 0

/-- `STAT.Field <- STAT.Field xor 1`, for a field of one bit (R135, R262). -/
def flipField (l : StatLayout) (f : StatField) (st : Word) : Word :=
  putField l f (getField l f st ^^^ 1) st

/-- `STAT.WidthBits` of a width preset: `(preset[1:0] << 1) | preset[2]` (R42, D22). -/
def widthBitsOf (preset : BitVec 3) : Word :=
  ((preset.setWidth 32 &&& 3) <<< 1) ||| (preset.setWidth 32 >>> 2)

/-- The bits the back end may set and clear: 15:0 (R33, R138). -/
def backendBits : Word := 0x0000FFFF

/-! ## Which layouts the block can have -/

/-- The fields that the block's own commands, reads and `VSYNC` write (R31). -/
def commandFields : List StatField :=
  [.oddLines, .dmaDirection, .readyForCommands, .readyForVram, .idle, .displayDisabled, .interlaced,
   .rgb24, .pal, .doubleHeight, .widthBits]

/-- The drawing flags, which only the back end writes (R32). -/
def drawingFields : List StatField := [.maskEnabled, .maskDrawn, .drawingAllowed, .dither]

/-- What a field holds in the init pattern (R31, column "reset"). -/
def fieldReset : StatField → Word
  | .readyForCommands | .idle | .displayDisabled => 1
  | .oddLines | .dmaDirection | .readyForVram | .interlaced | .rgb24 | .pal | .doubleHeight
  | .widthBits | .maskEnabled | .maskDrawn | .drawingAllowed | .dither => 0

/-- No field lies on another one: the masks of the fields have no bit in common. -/
def disjointFields (l : StatLayout) : Bool :=
  decide ((commandFields ++ drawingFields).Pairwise fun f g =>
    fieldLo l f + fieldWidth f ≤ fieldLo l g ∨ fieldLo l g + fieldWidth g ≤ fieldLo l f)

/-- A layout that the rules can hold for (log entry 23): the fields apart, the command fields in bits
31:16, which belong to the commands, the drawing flags in the back end's bits 15:0
(40_status_port.md R138), and `STAT_INIT` holding the reset value of every field (R31). -/
def layoutOk (l : StatLayout) : Bool :=
  disjointFields l
    && commandFields.all (fun f => decide (16 ≤ fieldLo l f ∧ fieldLo l f + fieldWidth f ≤ 32))
    && drawingFields.all (fun f => decide (fieldLo l f + fieldWidth f ≤ 16))
    && (commandFields ++ drawingFields).all
      (fun f => getField l f Config.statInit == fieldReset f)

end Sys2Proof.Machine
end

