-- ==== Sys2Proof/Machine/Rate.lean ====
section
/-! DEFINITION. The arithmetic of the frame timer that needs no state: rate selection, the frame
period, the millisecond figures and the rounding (44_frame_timer.md R241 to R243, R257;
45_arithmetic_control.md R405). Exact rationals throughout. -/

namespace Sys2Proof.Machine

/-- The rate `select_rate` chooses from `(auto_detect_rate, FIX_FPSLIMIT, localization,
interlacing)` (R243, D34). -/
def rateOf (p : Params) (localization : Localization) (interlacing : Bool) : Rat :=
  if !p.autoDetectRate then p.fixedFps
  else if p.fixFpsLimit then
    match localization with
    | .pal => p.fpsPalFix
    | .ntsc => p.fpsNtscFix
  else
    match localization with
    | .pal => if interlacing then p.fpsPalLace else p.fpsPal
    | .ntsc => if interlacing then p.fpsNtscLace else p.fpsNtsc

/-- `floor(TICKS_PER_SECOND / fps)` (R243). -/
def durationOf (p : Params) (fps : Rat) : Nat := ((p.ticksPerSecond : Rat) / fps).floor.toNat

/-- `ms(n) = floor(n * TICKS_PER_SECOND / 1000)` (R241). -/
def msTicks (p : Params) (n : Nat) : Nat := n * p.ticksPerSecond / 1000

/-- Rounding to the nearest integer, halves away from zero (R257, D37). -/
def roundHalfAway (q : Rat) : Int :=
  if 0 ≤ q then (q + 1 / 2).floor else -((-q + 1 / 2).floor)

/-- The frames to skip at a measured rate below the target: the rounded
`0.8 + (target - measured) / target`, clamped to 0..4 (R257). -/
def skipCount (target measured : Rat) : Nat :=
  (min (max (roundHalfAway (4 / 5 + (target - measured) / target)) 0) 4).toNat

/-- The parameter constraints of R241 and R242 and of 93_implementation_defined.md U20: rates
positive, the clock fast enough, opcodes and sub-codes distinct; and Y inside the parameter field
(R108), a possible layout of `STAT` (DESIGN CHOICE, safe: log entries 10, 13 and 23). -/
def paramsOk (p : Params) : Bool :=
  decide (1000 ≤ p.ticksPerSecond) && decide (0 < p.fixedFps)
    && decide (p.fixedFps ≤ (p.ticksPerSecond : Rat))
    && decide (0 < p.fpsNtsc) && decide (0 < p.fpsNtscLace) && decide (0 < p.fpsPal)
    && decide (0 < p.fpsPalLace) && decide (0 < p.fpsNtscFix) && decide (0 < p.fpsPalFix)
    && decide (p.posYBits ≤ 14) && codesOk p && layoutOk p.statLayout

end Sys2Proof.Machine
end

