-- ==== Sys2Proof/Machine/State.lean ====
section
/-! DEFINITION. The state of the block, item by item (spec 10_state.md R20 to R47), with the
arguments of a transaction that the spec keeps outside the block (R20: parameters, system memory,
save-state image, clock, the back end's answers), the waiting requests, and what a transaction puts
out (30_encoding.md R100 results, R102 events). Plain data throughout. -/

namespace Sys2Proof.Machine

/-- The lifecycle register (R21). -/
inductive Life where
  | off
  | ready
  | opened
deriving DecidableEq, Repr

/-- The mode of one direction of the data port (R35). -/
inductive PortMode where
  | normal
  | vramTransfer
deriving DecidableEq, Repr

/-- A transfer cursor (R36): `rr` counts cells left in the row, `rc` rows left. -/
structure Cursor where
  x : Nat
  y : Nat
  w : Nat
  h : Nat
  rr : Nat
  rc : Nat
  cur : Nat
deriving DecidableEq, Repr

/-- All seven fields 0 (R36). -/
def Cursor.idle : Cursor := ⟨0, 0, 0, 0, 0, 0, 0⟩

/-- The raw-info table (R25). -/
structure RawInfo where
  texwin : Word
  drawstart : Word
  drawend : Word
  drawoff : Word
deriving DecidableEq, Repr

/-- `game_color_depth` (R41). -/
inductive Depth where
  | bits15
  | bits24
deriving DecidableEq, Repr

/-- `size` (R41): `y` is the one signed quantity of the block. -/
structure DisplaySize where
  x : Nat
  y : Int
deriving DecidableEq, Repr

/-- `pos` (R41). -/
structure DisplayPos where
  x : Nat
  y : Nat
deriving DecidableEq, Repr

/-- `end` (R41). -/
structure DisplayEnd where
  x : Int
  y : Int
deriving DecidableEq, Repr

/-- The visible range (R41). -/
structure DisplayRange where
  left : Nat
  right : Nat
  top : Nat
  bottom : Nat
deriving DecidableEq, Repr

/-- The "previous" copies (R41, R43). -/
structure PrevGeometry where
  size : DisplaySize
  pos : DisplayPos
  dispEnd : DisplayEnd
  range : DisplayRange
deriving DecidableEq, Repr

/-- DisplayGeometry (R41). -/
structure Geometry where
  size : DisplaySize
  pos : DisplayPos
  dispEnd : DisplayEnd
  range : DisplayRange
  prev : PrevGeometry
  widthPreset : BitVec 3
  multiplier : Nat
  depth : Depth
  localization : Localization
  interlacing : Bool
deriving DecidableEq, Repr

/-- The frame timer's registers (R44). -/
structure FrameTimer where
  targetFps : Rat
  targetDuration : Nat
  nextUpdate : Nat
  lastMeasure : Nat
  measuredFps : Rat
  displayedFps : Rat
  lastDisplay : Nat
  framesToSkip : Nat
  skipLeft : Nat
  laceCount : Nat
deriving DecidableEq, Repr

/-- The clock input (44_frame_timer.md R240): the last reading taken, and how many ticks each coming
reading lies past the one before it. Readings never decrease, by construction (DESIGN CHOICE, safe: log
entry 9). -/
structure Clock where
  now : Nat
  ticks : List Nat
deriving DecidableEq, Repr

/-- The byte array `img` that the host owns (43_freeze_lifecycle.md R210, R211): its size, and its
bytes at offsets below that size. Size 0 is no image at all (DESIGN CHOICE, safe: log entry 22). -/
structure Image where
  size : Nat
  bytes : Memory
deriving DecidableEq, Repr

/-- A call of the back end into the block (30_encoding.md R101). -/
inductive BackendCall where
  | defineArea (dir : Direction) (x y w h : Int)
  | busyKick
  | statSet (m : Word)
  | statClr (m : Word)
  | infoStore (e : RawEntry) (v : Word)
deriving DecidableEq, Repr

/-- An output event (30_encoding.md R102). -/
inductive Event where
  | normalWord (w : Word)
  | render
  | uploadFullscreen
  | displayRefresh
  | apiSet
  | apiUnset
  | sleep (t : Nat)
deriving DecidableEq, Repr

/-- What a transaction returns to its caller (30_encoding.md R100, 60_exceptions.md R275). -/
inductive Answer where
  /-- Nothing: the transaction has no result. -/
  | nothing
  /-- A 32-bit word: `RS`, `RD`. -/
  | word (w : Word)
  /-- The words `RDM` produced. -/
  | words (ws : List Word)
  /-- The 1 or 0 of `FREEZE`. -/
  | code (n : Nat)
  /-- `INIT`'s success or failure. -/
  | success (ok : Bool)
deriving DecidableEq, Repr

/-- A transaction on its way to the block: the width of the port access (20_memory.md R84; 32 by
convention where the transaction is no port access: DESIGN CHOICE, safe, log entry 24), whether it was
issued while another one ran (R92), and its words (log entry 3). -/
structure Request where
  accessBits : Nat
  overlaps : Bool
  words : List Word
deriving DecidableEq, Repr

/-- The state of the machine. -/
structure State where
  /-- `LIFE` (R21). -/
  life : Life
  /-- `STAT` (R30, R31). -/
  stat : Word
  /-- `CTL[0..255]` (R24). -/
  ctl : Vector Word 256
  /-- `GDATA` (R23). -/
  gdata : Word
  /-- `INFO.*` (R25). -/
  info : RawInfo
  /-- `SAVE_SLOT` (R26). -/
  saveSlot : Nat
  /-- `IN_MODE`, `OUT_MODE` (R35). -/
  inMode : PortMode
  outMode : PortMode
  /-- `CIN`, `COUT` (R36). -/
  cin : Cursor
  cout : Cursor
  /-- `VRAM` in its byte view (20_memory.md R70, R71). -/
  vram : Memory
  /-- `VSYNC_READY` (R38). -/
  vsyncReady : Bool
  /-- `RDCNT` (R39). -/
  rdcnt : Nat
  /-- `BUSY` (R40). -/
  busy : Nat
  /-- `GEO` (R41). -/
  geo : Geometry
  /-- `FT` (R44). -/
  ft : FrameTimer
  /-- The parameters in force, fixed from `INIT` to `SHUTDOWN` (43_freeze_lifecycle.md R222, R226). -/
  cfg : Params
  /-- What the configuration source offers the next `INIT` (60_exceptions.md R283). -/
  cfgSource : Params
  /-- The system memory `base`, read-only to the block (20_memory.md R80, R81). -/
  sysMem : Memory
  /-- The save-state image handed to `FREEZE` (R45). -/
  img : Image
  /-- The clock input (44_frame_timer.md R240). -/
  clock : Clock
  /-- The calls the back end will make in answer to the coming `NORMAL_WORD` events, one list an
  event (30_encoding.md R102). -/
  backend : List (List BackendCall)
  /-- The transactions waiting at the ports, the first to run first (20_memory.md R89). -/
  requests : List Request
  /-- The output events of the transaction, in order (R102). -/
  events : List Event
  /-- The result of the transaction (R100). -/
  answer : Answer
  /-- The model's own: how many free values have been drawn. -/
  freeCount : Nat
deriving DecidableEq, Repr

/-- Why the machine stops with a fault. -/
inductive Fault where
  /-- Raised by a data-port access in VramTransfer mode through a cursor that is neither idle nor
  inside R37's bounds. The spec calls this a defect with no rule (60_exceptions.md R273); no run
  from reset reaches it (DEDUCED: log entry 16). Safe: the model stops where the spec gives no
  behaviour. -/
  | cursorDefect
deriving DecidableEq, Repr

/-- Why a transaction has no meaning (60_exceptions.md R274). -/
inductive Refusal where
  /-- Raised by the dispatcher for a transaction without a meaning yet. Safe. -/
  | notModelled (mnemonic : String)
  /-- Raised by `DEFINE_AREA` with an operand outside its range (R160). Safe. -/
  | defineAreaRange
  /-- Raised by `STAT_SET` and `STAT_CLR` with a mask bit above 15 (R138). Safe. -/
  | backendStatMask
  /-- Raised by `CHAIN` when a header or payload lies outside `base` (R82, R196). Safe. -/
  | chainOutOfMemory
  /-- Raised by the fetch for a port access that is not 32 bits wide (R83), and for any other request
whose width field is not 32 (log entry 24). Safe. -/
  | narrowPortAccess
  /-- Raised by the fetch for a transaction issued while another one ran (R92). Safe. -/
  | concurrentAccess
  /-- Raised by `FREEZE` when the image is shorter than its mode needs (R211). Safe. -/
  | freezeImageSize
  /-- Raised by every transaction in a `LIFE` value that does not list it (R221). Safe. -/
  | lifecycle
  /-- Raised by `INIT` with parameters outside their constraints (93_implementation_defined.md
  U20). Safe. -/
  | badParameters
  /-- Raised by the fetch for words that stand for no transaction (log entry 3). Safe. -/
  | undecodable (e : DecodeError)
deriving DecidableEq, Repr

/-- An all-zero raw-info table (R47). -/
def RawInfo.zero : RawInfo := ⟨0, 0, 0, 0⟩

/-- The machine right after the cold reset `INIT` (R47, R300) with the default parameters. `GDATA`
and the five timer registers that the spec leaves open hold the values of log entry 1 (DESIGN CHOICE,
unsafe); that the machine starts after `INIT` is log entry 7 (DEDUCED, safe). -/
def State.reset : State where
  life := .ready
  stat := Config.statInit
  ctl := Vector.replicate 256 0
  gdata := 0
  info := RawInfo.zero
  saveSlot := 0
  inMode := .normal
  outMode := .normal
  cin := Cursor.idle
  cout := Cursor.idle
  vram := []
  vsyncReady := false
  rdcnt := 0
  busy := 0
  geo :=
    { size := ⟨256, 0⟩
      pos := ⟨0, 0⟩
      dispEnd := ⟨0, 0⟩
      range := ⟨0, 0, 0, 0⟩
      prev := ⟨⟨0, 0⟩, ⟨0, 0⟩, ⟨0, 0⟩, ⟨0, 0, 0, 0⟩⟩
      widthPreset := 0
      multiplier := 1
      depth := .bits15
      localization := .ntsc
      interlacing := false }
  ft :=
    { targetFps := rateOf (Params.defaults false) .ntsc false
      targetDuration := durationOf (Params.defaults false)
        (rateOf (Params.defaults false) .ntsc false)
      nextUpdate := 0
      lastMeasure := 0
      measuredFps := 2
      displayedFps := 2
      lastDisplay := 0
      framesToSkip := 0
      skipLeft := 0
      laceCount := 0 }
  cfg := Params.defaults false
  cfgSource := Params.defaults false
  sysMem := []
  img := ⟨0, []⟩
  clock := ⟨0, []⟩
  backend := []
  requests := []
  events := []
  answer := .nothing
  freeCount := 0

end Sys2Proof.Machine
end

