-- ==== Sys2Proof/Machine/Cursor.lean ====
section
/-! DEFINITION. Cursor arithmetic (41_vram_transfer.md R160 to R164; 20_memory.md R73). -/

namespace Sys2Proof.Machine

/-- `norm(c)` (R163): one subtraction or one addition of `VRAM_CELLS`. -/
def normIndex (cells : Nat) (c : Int) : Int :=
  if (cells : Int) ≤ c then c - cells else if c < 0 then c + cells else c

/-- The cursor moved on by one cell, its row count not yet looked at (R164, first two lines). -/
def advanceCell (cells : Nat) (c : Cursor) : Cursor :=
  { c with cur := (normIndex cells ((c.cur : Int) + 1)).toNat, rr := c.rr - 1 }

/-- The step to the next row of the window: `rr` reloaded, the cursor moved on by `1024 - w`. -/
def nextRow (cells : Nat) (c : Cursor) : Cursor :=
  { c with rr := c.w, cur := (normIndex cells ((c.cur : Int) + 1024 - c.w)).toNat }

/-- `step(C)` (R164): the move past one cell. -/
def stepCursor (cells : Nat) (c : Cursor) : Cursor :=
  let moved := advanceCell cells c
  if moved.rr = 0 then
    let rowed := nextRow cells moved
    { rowed with rc := rowed.rc - 1 }
  else moved

/-- A cursor armed by `DEFINE_AREA` (R161). -/
def armedCursor (x y w h : Nat) : Cursor := ⟨x, y, w, h, w, h, y * 1024 + x⟩

/-- The bounds of an armed cursor (10_state.md R36, R37). -/
def cursorLegal (p : Params) (c : Cursor) : Bool :=
  decide (c.x ≤ 1023) && decide (c.y < p.vramRows) && decide (c.w ≤ 1024)
    && decide (c.h ≤ p.vramRows) && decide (1 ≤ c.rr) && decide (c.rr ≤ c.w)
    && decide (1 ≤ c.rc) && decide (c.rc ≤ c.h) && decide (c.cur < p.vramCells)

end Sys2Proof.Machine
end

