-- ==== Sys2Proof/Machine/Memory.lean ====
section
/-! DEFINITION. Byte memories in canonical form, and the wider views of them. An unlisted address
reads as 0: VRAM is zero-filled (20_memory.md, 10_state.md R47), and for the system memory and the
save-state image, which the host supplies, this is log entry 5 (DESIGN CHOICE, unsafe). Byte order is
little-endian everywhere (20_memory.md R74, R75). -/

namespace Sys2Proof.Machine

/-- The canonical form: addresses strictly rising, no byte equal to the default. -/
abbrev memWf (m : Memory) : Prop :=
  m.Pairwise (fun a b => a.1 < b.1) ∧ ∀ c ∈ m, c.2 ≠ 0

/-- Every listed address lies below `n`. -/
abbrev memBelow (n : Nat) (m : Memory) : Prop := ∀ c ∈ m, c.1 < n

/-- The byte at an address. -/
def readByte : Memory → Nat → Byte
  | [], _ => 0
  | c :: m, a => if c.1 = a then c.2 else readByte m a

/-- Storing one byte, keeping the canonical form: storing 0 removes the entry. -/
def writeByte : Memory → Nat → Byte → Memory
  | [], a, v => if v = 0 then [] else [(a, v)]
  | c :: m, a, v =>
    if a < c.1 then (if v = 0 then c :: m else (a, v) :: c :: m)
    else if a = c.1 then (if v = 0 then m else (a, v) :: m)
    else c :: writeByte m a v

/-- The 16-bit cell `i` of a byte view: byte `2i` is its low half (R71). -/
def readHalf (m : Memory) (i : Nat) : Half := readByte m (2 * i + 1) ++ readByte m (2 * i)

/-- Storing the 16-bit cell `i` (R71). -/
def writeHalf (m : Memory) (i : Nat) (v : Half) : Memory :=
  writeByte (writeByte m (2 * i) (v.extractLsb' 0 8)) (2 * i + 1) (v.extractLsb' 8 8)

/-- The 32-bit word at byte address `a`, least significant byte first (R74). -/
def readWord (m : Memory) (a : Nat) : Word :=
  readByte m (a + 3) ++ readByte m (a + 2) ++ readByte m (a + 1) ++ readByte m a

/-- The bytes of a word, least significant first (R74). -/
def wordBytes (w : Word) : List Byte :=
  [w.extractLsb' 0 8, w.extractLsb' 8 8, w.extractLsb' 16 8, w.extractLsb' 24 8]

/-- A row of bytes as a memory that starts at address `base`. -/
def bytesAt (base : Nat) : List Byte → Memory
  | [] => []
  | b :: bs => if b = 0 then bytesAt (base + 1) bs else (base, b) :: bytesAt (base + 1) bs

/-- The bytes at `lo .. lo + len - 1`, renumbered from 0. -/
def takeWindow (m : Memory) (lo len : Nat) : Memory :=
  (m.filter (fun c => decide (lo ≤ c.1) && decide (c.1 < lo + len))).map (fun c => (c.1 - lo, c.2))

/-- A memory with all its addresses moved up by `base`. -/
def shiftUp (base : Nat) (m : Memory) : Memory := m.map (fun c => (c.1 + base, c.2))

/-- `m` with its bytes at `lo .. lo + len - 1` replaced by those of `seg`. -/
def spliceMem (m : Memory) (lo len : Nat) (seg : Memory) : Memory :=
  m.filter (fun c => decide (c.1 < lo)) ++ seg
    ++ m.filter (fun c => decide (lo + len ≤ c.1))

end Sys2Proof.Machine
end

