-- ==== Sys2Proof/Machine/Operands.lean ====
section
/-! DEFINITION. The operand forms: how the fields of a command and the arguments of a call become the
values the rules compute with (30_encoding.md R105 to R112; 41_vram_transfer.md R160). Every field
is unsigned and zero-extended (R103, R400). -/

namespace Sys2Proof.Machine

/-- A one-bit field as a truth value. -/
def bitSet (b : BitVec 1) : Bool := b == 1

/-- `preset = (w[6] << 2) | w[1:0]` (R111), the one field assembled from two groups of bits. -/
def presetOf (hi : BitVec 1) (lo : BitVec 2) : BitVec 3 := hi ++ lo

/-- `y = w[10 + POS_Y_BITS - 1 : 10]` (R108): higher parameter bits are ignored. -/
def posYOf (p : Params) (yField : BitVec 14) : Nat := yField.toNat % 2 ^ p.posYBits

/-- `MULTIPLIER`: 2 when `dbl = 1`, else 1 (R142). -/
def multiplierOf (dbl : BitVec 1) : Nat := if bitSet dbl then 2 else 1

/-- The depth a SetDisplayInfo selects (R142). -/
def depthOf (rgb24 : BitVec 1) : Depth := if bitSet rgb24 then .bits24 else .bits15

/-- The localisation a SetDisplayInfo selects (R142). -/
def localizationOf (pal : BitVec 1) : Localization := if bitSet pal then .pal else .ntsc

/-- The operand ranges of `DEFINE_AREA` (R160, D13). -/
def areaInRange (p : Params) (x y w h : Int) : Bool :=
  decide (0 ≤ x) && decide (x ≤ 1023) && decide (0 ≤ y) && decide (y < p.vramRows)
    && decide (1 ≤ w) && decide (w ≤ 1024) && decide (1 ≤ h) && decide (h ≤ p.vramRows)

/-- An operand word of `DEFINE_AREA` as an integer (two's complement, log entry 3). -/
def intOperand (w : Word) : Int := w.toInt

/-- The mask operand of `STAT_SET` and `STAT_CLR` lies within bits 15:0 (R138). -/
def maskInRange (m : Word) : Bool := (m &&& 0xFFFF0000) == 0

/-- The entry of the raw-info table a name selects (R25). -/
def rawEntry (t : RawInfo) : RawEntry → Word
  | .texwin => t.texwin
  | .drawstart => t.drawstart
  | .drawend => t.drawend
  | .drawoff => t.drawoff

/-- The raw-info table with one entry replaced (R139). -/
def setRawEntry (t : RawInfo) (e : RawEntry) (v : Word) : RawInfo :=
  match e with
  | .texwin => { t with texwin := v }
  | .drawstart => { t with drawstart := v }
  | .drawend => { t with drawend := v }
  | .drawoff => { t with drawoff := v }

end Sys2Proof.Machine
end

