-- ==== Sys2Proof/Machine/Ops.lean ====
section
/-! DEFINITION. The operations the transactions share: sequencing, the lifecycle guard, output events
and answers, the clock, the control table, VRAM cells, system memory, and the back end's calls.
The block raises no exception and takes no interrupt (60_exceptions.md R270, R276, R279), so there
is no operation that takes one and none that returns from one. -/

namespace Sys2Proof.Machine

/-- The outcome of an operation that yields a value of type `α`. -/
abbrev Res (α : Type) := Host.Outcome α Fault Refusal

/-- Sequencing (00_scope.md section 5: a rule is a sequential program): a stop ends the whole. -/
def andThen {α β : Type} (o : Res α) (f : α → Res β) : Res β :=
  match o with
  | .next a => f a
  | .fault e => .fault e
  | .refused r => .refused r

/-- A transaction that needs `LIFE != Off` (43_freeze_lifecycle.md R220, R221). -/
def whenAlive (s : State) (k : State → Res State) : Res State :=
  if s.life = .off then .refused .lifecycle else k s

/-- A transaction that needs one value of `LIFE` (R220, R221). -/
def whenLife (life : Life) (s : State) (k : State → Res State) : Res State :=
  if s.life = life then k s else .refused .lifecycle

/-- `emit E` (30_encoding.md R102). -/
def emit (e : Event) (s : State) : State := { s with events := s.events ++ [e] }

/-- The transaction returns `a` (30_encoding.md R100). -/
def reply (a : Answer) (s : State) : State := { s with answer := a }

/-- `STAT <- v`. -/
def setStat (v : Word) (s : State) : State := { s with stat := v }

/-- `STAT.Field <- v`. -/
def setField (f : StatField) (v : Word) (s : State) : State :=
  setStat (putField s.cfg.statLayout f v s.stat) s

/-- `GDATA <- v` (10_state.md R23). -/
def setGdata (v : Word) (s : State) : State := { s with gdata := v }

/-- Entry `op` of the control table (10_state.md R24). -/
def ctlEntry (s : State) (op : BitVec 8) : Word := s.ctl[op.toNat]'op.isLt

/-- `CTL[w[31:24]] <- w` (40_status_port.md R130). -/
def storeCtl (w : Word) (s : State) : State :=
  { s with ctl := s.ctl.set (opcodeOf w).toNat w (opcodeOf w).isLt }

/-- `clock()` (44_frame_timer.md R240): the next reading, never below the last one. A reading the
environment has not supplied is free. -/
def readClock (s : State) : Nat × State :=
  match s.clock.ticks with
  | d :: ds => (s.clock.now + d, { s with clock := ⟨s.clock.now + d, ds⟩ })
  | [] =>
    let t := s.clock.now + Config.freeTicks s.freeCount
    (t, { s with clock := ⟨t, []⟩, freeCount := s.freeCount + 1 })

/-- The first supplied reading at or past `threshold`, and the readings after it. -/
def readingsUntil (threshold : Nat) : Nat → List Nat → Option (Nat × List Nat)
  | _, [] => none
  | now, d :: ds =>
    if threshold ≤ now + d then some (now + d, ds) else readingsUntil threshold (now + d) ds

/-- The hold of R251: readings are taken until one is at or past the threshold. When the supplied
ones run out below it, how far past the threshold the hold ends is free (DESIGN CHOICE, safe: log
entry 9). -/
def holdClock (threshold : Nat) (s : State) : State :=
  match readingsUntil threshold s.clock.now s.clock.ticks with
  | some (t, ds) => { s with clock := ⟨t, ds⟩ }
  | none =>
    { s with
      clock := ⟨max threshold s.clock.now + Config.freeTicks s.freeCount, []⟩
      freeCount := s.freeCount + 1 }

/-- `Vram[i]` (20_memory.md R70, R71). -/
def vramCell (s : State) (i : Nat) : Half := readHalf s.vram i

/-- `Vram[i] <- v`. -/
def setVramCell (i : Nat) (v : Half) (s : State) : State := { s with vram := writeHalf s.vram i v }

/-- `base[i]` (20_memory.md R80); no meaning at or past `MEM_WORDS` (R82). -/
def baseWord (s : State) (i : Nat) : Res Word :=
  if i < s.cfg.memWords then .next (readWord s.sysMem (4 * i)) else .refused .chainOutOfMemory

/-- `finish_read()` (41_vram_transfer.md R169). -/
def finishRead (s : State) : State :=
  { s with
    inMode := .normal
    stat := putField s.cfg.statLayout .readyForVram 0 s.stat
    cin := Cursor.idle }

/-- `finish_write(drawn)` (41_vram_transfer.md R178). -/
def finishWrite (drawn : Bool) (s : State) : State :=
  { s with
    outMode := .normal
    cout := Cursor.idle
    vsyncReady := s.vsyncReady || drawn }

/-- `GEO` after `INIT` and after Reset (10_state.md R47, D25). -/
def resetGeometry (p : Params) : Geometry where
  size := ⟨p.dispWidth[0], 0⟩
  pos := ⟨0, 0⟩
  dispEnd := ⟨0, 0⟩
  range := ⟨0, 0, 0, 0⟩
  prev := ⟨⟨0, 0⟩, ⟨0, 0⟩, ⟨0, 0⟩, ⟨0, 0, 0, 0⟩⟩
  widthPreset := 0
  multiplier := 1
  depth := .bits15
  localization := .ntsc
  interlacing := false

/-! ## The back end's calls (30_encoding.md R101) -/

/-- `DEFINE_AREA` (41_vram_transfer.md R160 to R162). -/
def defineArea (dir : Direction) (x y w h : Int) (s : State) : Res State :=
  if areaInRange s.cfg x y w h then
    match dir with
    | .input =>
      .next { s with
        cin := armedCursor x.toNat y.toNat w.toNat h.toNat
        inMode := .vramTransfer
        stat := putField s.cfg.statLayout .readyForVram 1 s.stat }
    | .output =>
      .next { s with
        cout := armedCursor x.toNat y.toNat w.toNat h.toNat
        outMode := .vramTransfer }
  else .refused .defineAreaRange

/-- `BUSY_KICK` (40_status_port.md R137). -/
def busyKick (s : State) : State := { s with busy := s.cfg.busySeqInit }

/-- `STAT_SET(m)` (40_status_port.md R138). -/
def statSetCall (m : Word) (s : State) : Res State :=
  if maskInRange m then .next (setStat (statOr s.stat m) s) else .refused .backendStatMask

/-- `STAT_CLR(m)` (40_status_port.md R138). -/
def statClrCall (m : Word) (s : State) : Res State :=
  if maskInRange m then .next (setStat (statAndNot s.stat m) s) else .refused .backendStatMask

/-- `INFO_STORE(e, v)` (40_status_port.md R139). -/
def infoStoreCall (e : RawEntry) (v : Word) (s : State) : State :=
  { s with info := setRawEntry s.info e v }

/-- One call of the back end. -/
def runCall (c : BackendCall) (s : State) : Res State :=
  match c with
  | .defineArea dir x y w h => defineArea dir x y w h s
  | .busyKick => .next (busyKick s)
  | .statSet m => statSetCall m s
  | .statClr m => statClrCall m s
  | .infoStore e v => .next (infoStoreCall e v s)

/-- The calls of one answer, in order. -/
def runCalls : List BackendCall → State → Res State
  | [], s => .next s
  | c :: cs, s => andThen (runCall c s) (runCalls cs)

/-- Delivery of `NORMAL_WORD(w)` (30_encoding.md R102, 41_vram_transfer.md R179): the event, then
whatever calls the back end makes before it returns (DESIGN CHOICE: log entry 11). -/
def normalWord (w : Word) (s : State) : Res State :=
  match s.backend with
  | [] => .next (emit (.normalWord w) s)
  | calls :: rest => runCalls calls { emit (.normalWord w) s with backend := rest }

end Sys2Proof.Machine
end

