-- ==== Sys2Proof/Machine/DataPort.lean ====
section
/-! DEFINITION. The data port and the VRAM transfer controller: `DEFINE_AREA`, `RD`, `RDM`, `WD`,
`WDM`, and the forms a data word takes in the two modes (41_vram_transfer.md). -/

namespace Sys2Proof.Machine

/-! ## The read path -/

/-- An idle cursor in VramTransfer mode is a finished read (R165). -/
def retireRead (s : State) : State :=
  if s.inMode = .vramTransfer ∧ s.cin = Cursor.idle then finishRead s else s

/-- The cursor after the high half of a word was read: a window whose last cell was the low half is
not stepped again (R167, R168; DEDUCED, unsafe: log entry 19). -/
def afterHighRead (cells : Nat) (c : Cursor) : Cursor :=
  if c.rc = 0 then c else stepCursor cells c

/-- One word of an armed read transfer (R167): two cells, latched in `GDATA` (R170), the transfer
ended in the same transaction as its last cell (R169). -/
def produceWord (s : State) : Res (Word × State) :=
  if cursorLegal s.cfg s.cin then
    let c := stepCursor s.cfg.vramCells s.cin
    let word : Word := vramCell s c.cur ++ vramCell s s.cin.cur
    let d := afterHighRead s.cfg.vramCells c
    let t : State := { setGdata word s with cin := d }
    .next (word, if d.rc = 0 then finishRead t else t)
  else .fault .cursorDefect

/-- At most `n` words of an armed read transfer (R167). -/
def produceWords : Nat → State → Res (List Word × State)
  | 0, s => .next ([], s)
  | n + 1, s =>
    andThen (produceWord s) fun first =>
      if first.2.inMode = .normal then .next ([first.1], first.2)
      else andThen (produceWords n first.2) fun more => .next (first.1 :: more.1, more.2)

/-- `read_chunk` (R166, R167, R171): nothing in Normal mode. -/
def readChunk (n : Nat) (s : State) : Res (List Word × State) :=
  let t := retireRead s
  if t.inMode = .normal then .next ([], t) else produceWords n t

/-- A single-word read of the data port (R172). -/
def readPort (s : State) : Res State :=
  andThen (readChunk 1 s) fun r => .next (reply (.word r.2.gdata) r.2)

/-! ## The write path -/

/-- An idle cursor in VramTransfer mode is a finished write that drew nothing (R165, R178). -/
def retireWrite (s : State) : State :=
  if s.outMode = .vramTransfer ∧ s.cout = Cursor.idle then finishWrite false s else s

/-- The second cell of a word (R175): stored at `c`, the cursor stepped, the transfer ended when the
window is exhausted. -/
def putHighHalf (w : Word) (c : Cursor) (s : State) : State :=
  let t := setVramCell c.cur (w.extractLsb' 16 16) s
  let d := stepCursor s.cfg.vramCells c
  if d.rc = 0 then finishWrite true t else { t with cout := d }

/-- One word of an armed write transfer (R175): low half first; at the odd edge the high half is
dropped and the transfer ends (R177); a row that ends on the low half moves to the next row before
the high half (R176). -/
def pixelWord (w : Word) (s : State) : Res State :=
  if cursorLegal s.cfg s.cout then
    let t := setVramCell s.cout.cur (w.extractLsb' 0 16) s
    let c := advanceCell s.cfg.vramCells s.cout
    if c.rr = 0 then
      if c.rc - 1 = 0 then .next (finishWrite true t)
      else .next (putHighHalf w (nextRow s.cfg.vramCells { c with rc := c.rc - 1 }) t)
    else .next (putHighHalf w c t)
  else .fault .cursorDefect

/-- One word written to the data port (R175): `OUT_MODE` is looked at for every word (R115). -/
def writeWord (w : Word) (s : State) : Res State :=
  let t := retireWrite s
  match t.outMode with
  | .normal => normalWord w t
  | .vramTransfer => pixelWord w t

/-- `write_chunk` (R174, R175): the words in order. -/
def writeChunk : List Word → State → Res State
  | [], s => .next s
  | w :: ws, s => andThen (writeWord w s) (writeChunk ws)

/-! ## The transactions -/

/-- `area.in` (R160 to R162). -/
def execAreaIn (x y w h : Word) (s : State) : Res State :=
  whenAlive s (defineArea .input (intOperand x) (intOperand y) (intOperand w) (intOperand h))

/-- `area.out` (R160 to R162). -/
def execAreaOut (x y w h : Word) (s : State) : Res State :=
  whenAlive s (defineArea .output (intOperand x) (intOperand y) (intOperand w) (intOperand h))

/-- `rd` (R172). -/
def execRd (s : State) : Res State := whenAlive s readPort

/-- `rdm` (R166, R167). -/
def execRdm (n : Word) (s : State) : Res State :=
  whenAlive s fun s =>
    andThen (readChunk n.toNat s) fun r => .next (reply (.words r.1) r.2)

/-- `rd.pixels` (R167): a word read from the data port; `IN_MODE` alone makes it pixels (R115). -/
def execRdPixels (s : State) : Res State := whenAlive s readPort

/-- `rd.reply` (R172): a word read from the data port; `IN_MODE` alone makes it the reply (R115). -/
def execRdReply (s : State) : Res State := whenAlive s readPort

/-- `wd` (R180): `WDM([w])`. -/
def execWd (w : Word) (s : State) : Res State := whenAlive s (writeChunk [w])

/-- `wdm` (R174, R175). -/
def execWdm (ws : List Word) (s : State) : Res State := whenAlive s (writeChunk ws)

/-- `wd.pixels` (R175): a word written to the data port; `OUT_MODE` alone makes it pixels (R115;
DEDUCED, safe: log entry 6). -/
def execWdPixels (hi lo : Half) (s : State) : Res State := whenAlive s (writeWord (hi ++ lo))

/-- `wd.normal` (R179): a word written to the data port; `OUT_MODE` alone makes it opaque (R115). -/
def execWdNormal (w : Word) (s : State) : Res State := whenAlive s (writeWord w)

end Sys2Proof.Machine
end

