-- ==== Sys2Proof/Machine/Chain.lean ====
section
/-! DEFINITION. The DMA chain walker (42_dma_chain.md). Its registers live for one transaction only
(10_state.md R29), so they are arguments here and no part of the state (DEDUCED, safe: log entry 17). -/

namespace Sys2Proof.Machine

/-- The walker's registers (R191). `iter` is not held: `chainWalk` counts `CHAIN_ITER_CAP - iter`
down instead, and stops at 0 (R195). -/
structure Walk where
  addr : Addr
  seen1 : Option Addr
  seen2 : Option Addr
deriving DecidableEq, Repr

/-- The registers at the start of a walk (R191). -/
def walkFrom (addr : Addr) : Walk := ⟨addr, none, none⟩

/-- The masked address of the node the walk enters, or none when it stops on the sentinel (R192) or
on a cycle (R194). The sentinel test is made before the mask (R197). -/
def enterNode (p : Params) (k : Walk) : Option Addr :=
  if k.addr = Config.chainEnd then none
  else
    let a := k.addr &&& p.addrMask
    if k.seen1 = some a ∨ k.seen2 = some a then none else some a

/-- The registers after the node at `a` (R193). -/
def leaveNode (k : Walk) (a : Addr) (hdr : Word) : Walk := ⟨headerNext hdr, some a, k.seen1⟩

/-- The word index of a byte address: its low two bits are dropped (20_memory.md R83). -/
def wordIndex (a : Addr) : Nat := a.toNat / 4

/-- `count` words of `base` from index `i` on (R196): indices are not masked. -/
def payloadWords (s : State) (i : Nat) : Nat → List Word
  | 0 => []
  | n + 1 => readWord s.sysMem (4 * i) :: payloadWords s (i + 1) n

/-- The node at `a` with header `hdr`: its payload goes to the write path as one chunk (R193, R196);
a payload that runs past the end of memory has no meaning. -/
def deliverNode (a : Addr) (hdr : Word) (s : State) : Res State :=
  if wordIndex a + (headerCount hdr).toNat < s.cfg.memWords then
    writeChunk (payloadWords s (wordIndex a + 1) (headerCount hdr).toNat) s
  else .refused .chainOutOfMemory

/-- The loop of R193, for at most the given number of nodes. -/
def chainWalk : Nat → Walk → State → Res State
  | 0, _, s => .next s
  | n + 1, k, s =>
    match enterNode s.cfg k with
    | none => .next s
    | some a =>
      andThen (baseWord s (wordIndex a)) fun hdr =>
        andThen (deliverNode a hdr s) (chainWalk n (leaveNode k a hdr))

/-- A walk that enters a node whose header word is given (R117, R192): that node, then the rest
(DEDUCED, safe: log entry 6). -/
def walkFromHeader (node : Addr) (hdr : Word) (s : State) : Res State :=
  match s.cfg.chainIterCap with
  | 0 => .next s
  | n + 1 =>
    match enterNode s.cfg (walkFrom node) with
    | none => .next s
    | some a =>
      andThen (deliverNode a hdr s) (chainWalk n (leaveNode (walkFrom node) a hdr))

/-- `chain` (R190 to R198): `start[23:0]` is the first node. -/
def execChain (start : Word) (s : State) : Res State :=
  whenAlive s fun s => chainWalk s.cfg.chainIterCap (walkFrom (start.extractLsb' 0 24)) s

/-- `chain.node` (R193): the walk stands at `node` and has read this header. -/
def execChainNode (node : Addr) (count : BitVec 8) (next : Addr) (s : State) : Res State :=
  whenAlive s (walkFromHeader node (headerWord count next))

/-- `chain.end` (R192): the node is processed and the walk stops. -/
def execChainEnd (node : Addr) (count : BitVec 8) (s : State) : Res State :=
  whenAlive s (walkFromHeader node (headerWord count Config.chainEnd))

end Sys2Proof.Machine
end

