-- ==== Sys2Proof/Machine/Timer.lean ====
section
/-! DEFINITION. The frame timer and the transaction `VSYNC` (44_frame_timer.md). -/

namespace Sys2Proof.Machine

/-- `select_rate()` (R243). -/
def selectRate (s : State) : State :=
  let fps := rateOf s.cfg s.geo.localization s.geo.interlacing
  { s with ft := { s.ft with targetFps := fps, targetDuration := durationOf s.cfg fps } }

/-- `rate_changed()` (R244). -/
def rateChanged (s : State) : State :=
  let t := selectRate s
  { t with ft := { t.ft with laceCount := 0 } }

/-- `eco_sleep(rem)` (R252): sleeps only for a time strictly between 0 and 100 ms. -/
def ecoSleep (rem : Nat) (s : State) : State :=
  if s.cfg.ecoMode && decide (msTicks s.cfg 4 < rem)
      && decide (rem - msTicks s.cfg 4 < msTicks s.cfg 100)
  then emit (.sleep (rem - msTicks s.cfg 4)) s
  else s

/-- The threshold after a call that was behind schedule or on time: one frame on, clamped up to the
reading (R250). -/
def lateThreshold (threshold duration now : Nat) : Nat := max (threshold + duration) now

/-- `limit_frame()` (R250, R251). -/
def limitFrame (s : State) : State :=
  let (now, t) := readClock s
  if t.ft.nextUpdate ≤ now then
    { t with
      ft := { t.ft with
        nextUpdate := lateThreshold t.ft.nextUpdate t.ft.targetDuration now } }
  else
    let u := holdClock t.ft.nextUpdate (ecoSleep (t.ft.nextUpdate - now) t)
    { u with ft := { u.ft with nextUpdate := u.ft.nextUpdate + u.ft.targetDuration } }

/-- The rate of a frame that took `dur` ticks (R255): a stall reports 2, no ticks at all a free
positive rational (DESIGN CHOICE, safe: log entry 20). -/
def measuredRate (p : Params) (dur free : Nat) : Rat :=
  if msTicks p 250 < dur then 2
  else if dur = 0 then Config.freeRate free
  else (p.ticksPerSecond : Rat) / dur

/-- `refresh_display(now)` (R256): at least a fifth of a second since the last refresh. -/
def refreshDisplay (now : Nat) (s : State) : State :=
  if s.cfg.ticksPerSecond ≤ 5 * (now - s.ft.lastDisplay) then
    { s with ft := { s.ft with displayedFps := s.ft.measuredFps, lastDisplay := now } }
  else s

/-- `compute_skip(dur)` (R257). -/
def computeSkip (dur : Nat) (s : State) : State :=
  { s with
    ft := { s.ft with
      framesToSkip :=
        if s.cfg.frameSkipEnabled && decide (s.ft.targetDuration < dur)
        then skipCount s.ft.targetFps s.ft.measuredFps
        else 0 } }

/-- `measure_fps()` (R255). A free value is drawn exactly when `dur = 0`. -/
def measureFps (s : State) : State :=
  let (now, t) := readClock s
  let dur := now - t.ft.lastMeasure
  let u : State :=
    { t with
      ft := { t.ft with
        lastMeasure := now
        measuredFps := measuredRate t.cfg dur t.freeCount }
      freeCount := if dur = 0 then t.freeCount + 1 else t.freeCount }
  computeSkip dur (refreshDisplay now u)

/-- The limiting half of `check()` (R258): in frame-skip mode only from the sixteenth vsync on. -/
def checkLimit (s : State) : State :=
  if s.cfg.frameSkipEnabled then
    let t : State := { s with ft := { s.ft with laceCount := s.ft.laceCount + 1 } }
    if t.cfg.frameLimitEnabled && decide (Config.frameMaxLace ≤ t.ft.laceCount) then limitFrame t
    else t
  else if s.cfg.frameLimitEnabled then limitFrame s
  else s

/-- `check()` (R258). -/
def checkFrame (s : State) : State :=
  let t := checkLimit s
  if t.cfg.frameSkipEnabled || t.cfg.fpsDisplayEnabled then measureFps t else t

/-- `odd_even_at_vsync()` (R262). -/
def oddEvenAtVsync (s : State) : State :=
  if s.cfg.fixOddEvenBit then s else setStat (flipField s.cfg.statLayout .oddLines s.stat) s

/-- `present_or_skip()` (R263). -/
def presentOrSkip (s : State) : State :=
  if s.vsyncReady then
    if s.cfg.frameSkipEnabled && decide (0 < s.ft.skipLeft) then
      { s with vsyncReady := false, ft := { s.ft with skipLeft := s.ft.skipLeft - 1 } }
    else
      let t := emit .render s
      { t with
        vsyncReady := false
        ft := { t.ft with
          skipLeft := if t.cfg.frameSkipEnabled then t.ft.framesToSkip else t.ft.skipLeft } }
  else s

/-- `VSYNC` (R260): legal only when `LIFE = Open` (R220). -/
def execVsync (s : State) : Res State :=
  whenLife .opened s fun s => .next (presentOrSkip (checkFrame (oddEvenAtVsync s)))

end Sys2Proof.Machine
end

