-- ==== Sys2Proof/Machine/StatusPort.lean ====
section
/-! DEFINITION. The status port: the status read, the eight commands and the unassigned opcodes, and
the back end's calls on the status register (40_status_port.md). Every command first stores its
whole word in the control table (R130). -/

namespace Sys2Proof.Machine

/-! ## The status read (R132 to R136) -/

/-- Step 1 of `RS`, the fake-busy sequence (R134): the parity of the decremented counter. -/
def fakeBusy (s : State) : State :=
  if s.busy = 0 then s
  else
    let left := s.busy - 1
    let on := bitWord (left % 2 == 0)
    setField .readyForCommands on (setField .idle on { s with busy := left })

/-- Step 3 of `RS`, the odd/even compatibility fix (R135). -/
def oddEvenRead (s : State) : State :=
  if s.cfg.fixOddEvenBit then
    if s.rdcnt + 1 = 2 then setStat (flipField s.cfg.statLayout .oddLines s.stat) { s with rdcnt := 0 }
    else { s with rdcnt := s.rdcnt + 1 }
  else s

/-- `RS` (R132): update, sample, count. -/
def execRs (s : State) : Res State :=
  whenAlive s fun s =>
    let t := fakeBusy s
    .next (reply (.word (statRaw t.stat)) (oddEvenRead t))

/-! ## The effects of the commands -/

/-- Reset (R141). -/
def resetEffect (s : State) : State :=
  { s with
    inMode := .normal
    outMode := .normal
    cin := Cursor.idle
    cout := Cursor.idle
    geo := resetGeometry s.cfg
    stat := statReplace s.stat Config.statInit
    info := RawInfo.zero }

/-- ToggleDisplay (R147). -/
def displayEffect (off : BitVec 1) (s : State) : State :=
  let was := getField s.cfg.statLayout .displayDisabled s.stat == 1
  let t := setField .displayDisabled (bitWord (bitSet off)) s
  if was && !bitSet off && decide (s.geo.depth = .bits15) then emit .uploadFullscreen t else t

/-- SetTransferMode (R143). -/
def modeEffect (m : BitVec 2) (s : State) : State :=
  let t := setField .dmaDirection (m.setWidth 32) s
  if m = 3 then { t with inMode := .vramTransfer, outMode := .vramTransfer }
  else if m = 2 then { t with outMode := .vramTransfer }
  else t

/-- SetDisplayPosition (R144): clamped into VRAM, the end recomputed, a frame made ready. -/
def posEffect (y x : Nat) (s : State) : State :=
  let px := min x 1023
  let py := min y (s.cfg.vramRows - 1)
  { s with
    geo := { s.geo with
      prev := { s.geo.prev with pos := s.geo.pos, dispEnd := s.geo.dispEnd }
      pos := ⟨px, py⟩
      dispEnd := ⟨(px : Int) + s.geo.size.x, (py : Int) + s.geo.size.y⟩ }
    vsyncReady := true }

/-- SetDisplayWidth (R145). -/
def hrangeEffect (right left : Nat) (s : State) : State :=
  { s with
    geo := { s.geo with
      prev := { s.geo.prev with
        range := { s.geo.prev.range with left := s.geo.range.left, right := s.geo.range.right } }
      range := { s.geo.range with left := left, right := right } } }

/-- The height of a visible range (R142, R146): computed in the integers, it may be negative. -/
def heightOf (multiplier top bottom : Nat) : Int := (multiplier : Int) * ((bottom : Int) - top)

/-- SetDisplayHeight (R146): nothing at all when neither bound changes. -/
def vrangeEffect (bottom top : Nat) (s : State) : State :=
  if top = s.geo.range.top ∧ bottom = s.geo.range.bottom then s
  else
    emit .displayRefresh
      { s with
        geo := { s.geo with
          prev := { s.geo.prev with
            range := { s.geo.prev.range with top := s.geo.range.top, bottom := s.geo.range.bottom }
            size := s.geo.size }
          range := { s.geo.range with top := top, bottom := bottom }
          size := { s.geo.size with y := heightOf s.geo.multiplier top bottom } } }

/-- The geometry a SetDisplayInfo leaves (R142). -/
def infoGeometry (preset : BitVec 3) (lace rgb24 pal dbl : BitVec 1) (p : Params)
    (g : Geometry) : Geometry :=
  { g with
    prev := { g.prev with size := g.size }
    widthPreset := preset
    size := ⟨p.dispWidth[preset.toNat]'preset.isLt,
      heightOf (multiplierOf dbl) g.range.top g.range.bottom⟩
    multiplier := multiplierOf dbl
    localization := localizationOf pal
    depth := depthOf rgb24
    interlacing := bitSet lace }

/-- The status word a SetDisplayInfo leaves (R142, 10_state.md R42). -/
def infoStat (l : StatLayout) (preset : BitVec 3) (lace rgb24 pal dbl : BitVec 1) (st : Word) : Word :=
  putField l .interlaced (bitWord (bitSet lace))
    (putField l .rgb24 (bitWord (bitSet rgb24))
      (putField l .pal (bitWord (bitSet pal))
        (putField l .doubleHeight (bitWord (bitSet dbl))
          (putField l .widthBits (widthBitsOf preset) st))))

/-- SetDisplayInfo (R142): geometry, derived status bits, and the frame timer's notice. -/
def infoEffect (preset : BitVec 3) (lace rgb24 pal dbl : BitVec 1) (s : State) : State :=
  let t : State :=
    { s with
      geo := infoGeometry preset lace rgb24 pal dbl s.cfg s.geo
      stat := infoStat s.cfg.statLayout preset lace rgb24 pal dbl s.stat }
  if t.cfg.autoDetectRate then rateChanged t else t

/-- GpuRequest for a raw-info entry (R149, R150). -/
def requestEntry (e : RawEntry) (s : State) : State := setGdata (rawEntry s.info e) s

/-- GpuRequest for the GPU type (R151). -/
def requestType (s : State) : State := setGdata s.cfg.gpuTypeValue s

/-- GpuRequest for the BIOS address (R152). -/
def requestBios (s : State) : State := setGdata s.cfg.biosAddrValue s

/-! ## The commands as transactions (R130) -/

/-- `ws.reset` (R105, R141). -/
def execWsReset (param : BitVec 24) (s : State) : Res State :=
  whenAlive s fun s => .next (resetEffect (storeCtl (resetWord s.cfg param) s))

/-- `ws.display` (R106, R147). -/
def execWsDisplay (ignored : BitVec 23) (off : BitVec 1) (s : State) : Res State :=
  whenAlive s fun s => .next (displayEffect off (storeCtl (displayWord s.cfg ignored off) s))

/-- `ws.mode` (R107, R143). -/
def execWsMode (ignored : BitVec 22) (m : BitVec 2) (s : State) : Res State :=
  whenAlive s fun s => .next (modeEffect m (storeCtl (modeWord s.cfg ignored m) s))

/-- `ws.pos` (R108, R144). -/
def execWsPos (yField : BitVec 14) (x : BitVec 10) (s : State) : Res State :=
  whenAlive s fun s =>
    .next (posEffect (posYOf s.cfg yField) x.toNat (storeCtl (posWord s.cfg yField x) s))

/-- `ws.hrange` (R109, R145). -/
def execWsHrange (right left : BitVec 12) (s : State) : Res State :=
  whenAlive s fun s =>
    .next (hrangeEffect right.toNat left.toNat (storeCtl (hrangeWord s.cfg right left) s))

/-- `ws.vrange` (R110, R146). -/
def execWsVrange (ignored : BitVec 4) (bottom top : BitVec 10) (s : State) : Res State :=
  whenAlive s fun s =>
    .next (vrangeEffect bottom.toNat top.toNat (storeCtl (vrangeWord s.cfg ignored bottom top) s))

/-- `ws.info` (R111, R142). -/
def execWsInfo (ignored : BitVec 16) (ignored7 presetHi lace rgb24 pal dbl : BitVec 1)
    (presetLo : BitVec 2) (s : State) : Res State :=
  whenAlive s fun s =>
    .next (infoEffect (presetOf presetHi presetLo) lace rgb24 pal dbl
      (storeCtl (infoWord s.cfg ignored ignored7 presetHi lace rgb24 pal dbl presetLo) s))

/-- `ws.req.texwin` (R149). -/
def execWsReqTexwin (ignored : BitVec 16) (s : State) : Res State :=
  whenAlive s fun s =>
    .next (requestEntry .texwin (storeCtl (requestWord s.cfg ignored s.cfg.reqs.texwin) s))

/-- `ws.req.drawstart` (R149). -/
def execWsReqDrawstart (ignored : BitVec 16) (s : State) : Res State :=
  whenAlive s fun s =>
    .next (requestEntry .drawstart (storeCtl (requestWord s.cfg ignored s.cfg.reqs.drawstart) s))

/-- `ws.req.drawend` (R149). -/
def execWsReqDrawend (ignored : BitVec 16) (s : State) : Res State :=
  whenAlive s fun s =>
    .next (requestEntry .drawend (storeCtl (requestWord s.cfg ignored s.cfg.reqs.drawend) s))

/-- `ws.req.drawoff_a` (R150). -/
def execWsReqDrawoffA (ignored : BitVec 16) (s : State) : Res State :=
  whenAlive s fun s =>
    .next (requestEntry .drawoff (storeCtl (requestWord s.cfg ignored s.cfg.reqs.drawoffA) s))

/-- `ws.req.drawoff_b` (R150). -/
def execWsReqDrawoffB (ignored : BitVec 16) (s : State) : Res State :=
  whenAlive s fun s =>
    .next (requestEntry .drawoff (storeCtl (requestWord s.cfg ignored s.cfg.reqs.drawoffB) s))

/-- `ws.req.gputype` (R151). -/
def execWsReqGputype (ignored : BitVec 16) (s : State) : Res State :=
  whenAlive s fun s => .next (requestType (storeCtl (requestWord s.cfg ignored s.cfg.reqs.gputype) s))

/-- `ws.req.biosaddr_a` (R152). -/
def execWsReqBiosaddrA (ignored : BitVec 16) (s : State) : Res State :=
  whenAlive s fun s => .next (requestBios (storeCtl (requestWord s.cfg ignored s.cfg.reqs.biosaddrA) s))

/-- `ws.req.biosaddr_b` (R152). -/
def execWsReqBiosaddrB (ignored : BitVec 16) (s : State) : Res State :=
  whenAlive s fun s => .next (requestBios (storeCtl (requestWord s.cfg ignored s.cfg.reqs.biosaddrB) s))

/-- `ws.req.other` (R153): `GDATA` keeps its value. -/
def execWsReqOther (ignored : BitVec 16) (sub : BitVec 8) (s : State) : Res State :=
  whenAlive s fun s => .next (storeCtl (requestWord s.cfg ignored sub) s)

/-- `ws.raw.01` (R140). -/
def execWsRaw01 (param : BitVec 24) (s : State) : Res State :=
  whenAlive s fun s => .next (storeCtl (rawWord Config.opUnassigned1 param) s)

/-- `ws.raw.02` (R140). -/
def execWsRaw02 (param : BitVec 24) (s : State) : Res State :=
  whenAlive s fun s => .next (storeCtl (rawWord Config.opUnassigned2 param) s)

/-- `ws.raw` (R140). -/
def execWsRaw (op : BitVec 8) (param : BitVec 24) (s : State) : Res State :=
  whenAlive s fun s => .next (storeCtl (rawWord op param) s)

/-! ## The back end's calls as transactions (R137 to R139) -/

/-- `kick`, `BUSY_KICK` (R137). -/
def execKick (s : State) : Res State := whenAlive s fun s => .next (busyKick s)

/-- `stat.set` (R138). -/
def execStatSet (m : Word) (s : State) : Res State := whenAlive s (statSetCall m)

/-- `stat.clr` (R138). -/
def execStatClr (m : Word) (s : State) : Res State := whenAlive s (statClrCall m)

/-- `info.store` (R139). -/
def execInfoStore (e : RawEntry) (v : Word) (s : State) : Res State :=
  whenAlive s fun s => .next (infoStoreCall e v s)

/-! ## `WS(w)` as a whole (R130), as `FREEZE SET` replays it -/

/-- What a decoded status-port word does after its store (R130's dispatch). -/
def commandEffect (i : Instr) (s : State) : State :=
  match i with
  | .wsReset _ => resetEffect s
  | .wsDisplay _ off => displayEffect off s
  | .wsMode _ m => modeEffect m s
  | .wsPos yField x => posEffect (posYOf s.cfg yField) x.toNat s
  | .wsHrange right left => hrangeEffect right.toNat left.toNat s
  | .wsVrange _ bottom top => vrangeEffect bottom.toNat top.toNat s
  | .wsInfo _ _ presetHi lace rgb24 pal dbl presetLo =>
    infoEffect (presetOf presetHi presetLo) lace rgb24 pal dbl s
  | .wsReqTexwin _ => requestEntry .texwin s
  | .wsReqDrawstart _ => requestEntry .drawstart s
  | .wsReqDrawend _ => requestEntry .drawend s
  | .wsReqDrawoffA _ => requestEntry .drawoff s
  | .wsReqDrawoffB _ => requestEntry .drawoff s
  | .wsReqGputype _ => requestType s
  | .wsReqBiosaddrA _ => requestBios s
  | .wsReqBiosaddrB _ => requestBios s
  | .wsReqOther _ _ => s
  | .wsRaw01 _ => s
  | .wsRaw02 _ => s
  | .wsRaw _ _ => s
  -- `decodeStatus` yields none of the following
  | .wdPixels _ _ | .wdNormal _ | .rdPixels | .rdReply | .chainNode _ _ _ | .chainEnd _ _
  | .frzSet | .frzGet | .frzInfo | .frzOther _ | .init _ | .shutdown | .openPort | .closePort
  | .rs | .rd | .rdm _ | .wd _ | .wdm _ | .chain _ | .frz _ | .vsync | .areaIn _ _ _ _
  | .areaOut _ _ _ _ | .kick | .statSet _ | .statClr _ | .infoStore _ _ => s

/-- `WS(w)` (R130): store, then dispatch. -/
def writeStatus (w : Word) (s : State) : State :=
  commandEffect (decodeStatus s.cfg w) (storeCtl w s)

end Sys2Proof.Machine
end

