-- ==== Sys2Proof/Machine/Freeze.lean ====
section
/-! DEFINITION. The save-state transaction (43_freeze_lifecycle.md R210 to R219; the image layout is
30_encoding.md R119). -/

namespace Sys2Proof.Machine

/-- Where the image's `vram` field starts (30_encoding.md R119). -/
def vramOffset : Nat := 1032

/-- The size `GET` and `SET` need (R211). -/
def imageBytes (p : Params) : Nat := vramOffset + p.vramBytes

/-- The `status` and `control` fields of an image of this state, from offset 4 on (R213). -/
def headerFields (s : State) : Memory :=
  bytesAt 4 (wordBytes (statRaw s.stat) ++ s.ctl.toList.flatMap wordBytes)

/-- `freeze_get` (R213): the image's `status`, `control` and `vram` fields are written, its
`version` field and the bytes past the layout are not. -/
def freezeGet (s : State) : State :=
  let vramField := shiftUp vramOffset (takeWindow s.vram 0 s.cfg.vramBytes)
  { s with
    img := { s.img with
      bytes := spliceMem (spliceMem s.img.bytes 4 1028 (headerFields s)) vramOffset
        s.cfg.vramBytes vramField } }

/-- The control table an image holds (R215). -/
def imageCtl (img : Image) : Vector Word 256 :=
  Vector.ofFn fun i => readWord img.bytes (8 + 4 * i.val)

/-- The restore half of `freeze_set` (R215). -/
def restoreImage (s : State) : State :=
  { s with
    stat := statReplace s.stat (readWord s.img.bytes 4)
    ctl := imageCtl s.img
    vram := takeWindow s.img.bytes vramOffset s.cfg.vramBytes }

/-- The replay half of `freeze_set` (R215): `WS(CTL[k])` for each `k` in order, each word as the
table holds it by then. -/
def replayCommands : List (BitVec 8) → State → State
  | [], s => s
  | k :: ks, s => replayCommands ks (writeStatus (ctlEntry s k) s)

/-- `freeze_set` (R215). -/
def freezeSet (s : State) : State := replayCommands Config.replayOrder (restoreImage s)

/-- `freeze_info` (R217): the slot number is the image's first word. -/
def freezeInfo (s : State) : State :=
  let n := (readWord s.img.bytes 0).toNat
  if n ≤ Config.maxSaveSlot then reply (.code 1) { s with saveSlot := n } else reply (.code 0) s

/-- The image is as large as a mode needs (R211). -/
def needImage (size : Nat) (s : State) (k : State → Res State) : Res State :=
  if size ≤ s.img.size then k s else .refused .freezeImageSize

/-- `INFO` (R217). -/
def freezeInfoMode (s : State) : Res State := needImage 4 s fun s => .next (freezeInfo s)

/-- `GET` and `SET` (R211, R214): the size, the version, then the mode's work. -/
def versionedMode (work : State → State) (s : State) : Res State :=
  needImage (imageBytes s.cfg) s fun s =>
    if readWord s.img.bytes 0 = Config.freezeVersion then .next (reply (.code 1) (work s))
    else .next (reply (.code 0) s)

/-- An unknown mode (R219). -/
def unknownMode (s : State) : Res State := .next (reply (.code 0) s)

/-- `FREEZE(mode, img)` (R212). -/
def freezeByMode (mode : Word) (s : State) : Res State :=
  if mode = 2 then freezeInfoMode s
  else if mode ≠ 0 ∧ mode ≠ 1 then unknownMode s
  else if mode = 1 then versionedMode freezeGet s
  else versionedMode freezeSet s

/-- `frz` (R210, R212). -/
def execFrz (mode : Word) (s : State) : Res State := whenAlive s (freezeByMode mode)

/-- `frz.set` (R215). -/
def execFrzSet (s : State) : Res State := whenAlive s (versionedMode freezeSet)

/-- `frz.get` (R213). -/
def execFrzGet (s : State) : Res State := whenAlive s (versionedMode freezeGet)

/-- `frz.info` (R217). -/
def execFrzInfo (s : State) : Res State := whenAlive s freezeInfoMode

/-- `frz.other` (R219): any other mode value, whatever it is. -/
def execFrzOther (_mode : Word) (s : State) : Res State := whenAlive s unknownMode

end Sys2Proof.Machine
end

