-- ==== Sys2Proof/Machine/Lifecycle.lean ====
section
/-! DEFINITION. The lifecycle transactions (43_freeze_lifecycle.md R220 to R226). -/

namespace Sys2Proof.Machine

/-- The frame timer after `INIT` (10_state.md R47): the selected rate, three counters 0, and the
five registers the spec leaves open at free values (70_reset_and_hazards.md R303). -/
def initTimer (p : Params) (free : Nat) : FrameTimer where
  targetFps := rateOf p .ntsc false
  targetDuration := durationOf p (rateOf p .ntsc false)
  nextUpdate := Config.freeTicks free
  lastMeasure := Config.freeTicks (free + 1)
  measuredFps := Config.freeRate free
  displayedFps := Config.freeRate (free + 1)
  lastDisplay := Config.freeTicks (free + 2)
  framesToSkip := 0
  skipLeft := 0
  laceCount := 0

/-- The cold reset (R222): every item of 10_state.md R47 at its "after `INIT`" value, under the
parameters the configuration source offers. -/
def initEffect (s : State) : State :=
  { s with
    life := .ready
    stat := Config.statInit
    ctl := Vector.replicate 256 0
    gdata := Config.freeWord s.freeCount
    info := RawInfo.zero
    saveSlot := 0
    inMode := .normal
    outMode := .normal
    cin := Cursor.idle
    cout := Cursor.idle
    vram := []
    vsyncReady := false
    rdcnt := 0
    busy := 0
    geo := resetGeometry s.cfgSource
    ft := initTimer s.cfgSource s.freeCount
    cfg := s.cfgSource
    freeCount := s.freeCount + 3
    answer := .success true }

/-- `init` (R222): legal in `Off` only; without its memory it reports failure and stays `Off`
(60_exceptions.md R272), with bad parameters it is refused (DESIGN CHOICE, safe: log entry 10). -/
def execInit (allocOk : Bool) (s : State) : Res State :=
  whenLife .off s fun s =>
    if allocOk then
      if paramsOk s.cfgSource then .next (initEffect s) else .refused .badParameters
    else .next (reply (.success false) s)

/-- `open` (R223): one clock reading for three registers. -/
def execOpenPort (s : State) : Res State :=
  whenLife .ready s fun s =>
    let (now, t) := readClock (emit .apiSet { s with life := .opened })
    .next
      { t with
        ft := { t.ft with
          nextUpdate := now
          lastMeasure := now
          lastDisplay := now
          laceCount := 0 } }

/-- `close` (R224). -/
def execClosePort (s : State) : Res State :=
  whenLife .opened s fun s => .next (emit .apiUnset { s with life := .ready })

/-- `shutdown` (R225): the items that are meaningless from here on keep what they hold (DEDUCED: log
entry 15). -/
def execShutdown (s : State) : Res State :=
  whenLife .ready s fun s => .next { s with life := .off }

end Sys2Proof.Machine
end

