-- ==== Sys2Proof/Machine/Dispatch.lean ====
section
/-! DEFINITION. The meaning of every transaction, one arm a row of spec/opcode_table.json. -/

namespace Sys2Proof.Machine

def exec (i : Instr) (s : State) : Host.Outcome State Fault Refusal :=
  match i with
  | .wsReset param => Sys2Proof.Machine.execWsReset param s
  | .wsDisplay ignored off => Sys2Proof.Machine.execWsDisplay ignored off s
  | .wsMode ignored m => Sys2Proof.Machine.execWsMode ignored m s
  | .wsPos yField x => Sys2Proof.Machine.execWsPos yField x s
  | .wsHrange right left => Sys2Proof.Machine.execWsHrange right left s
  | .wsVrange ignored bottom top => Sys2Proof.Machine.execWsVrange ignored bottom top s
  | .wsInfo ignored ignored7 presetHi lace rgb24 pal dbl presetLo => Sys2Proof.Machine.execWsInfo ignored ignored7 presetHi lace rgb24 pal dbl presetLo s
  | .wsReqTexwin ignored => Sys2Proof.Machine.execWsReqTexwin ignored s
  | .wsReqDrawstart ignored => Sys2Proof.Machine.execWsReqDrawstart ignored s
  | .wsReqDrawend ignored => Sys2Proof.Machine.execWsReqDrawend ignored s
  | .wsReqDrawoffA ignored => Sys2Proof.Machine.execWsReqDrawoffA ignored s
  | .wsReqDrawoffB ignored => Sys2Proof.Machine.execWsReqDrawoffB ignored s
  | .wsReqGputype ignored => Sys2Proof.Machine.execWsReqGputype ignored s
  | .wsReqBiosaddrA ignored => Sys2Proof.Machine.execWsReqBiosaddrA ignored s
  | .wsReqBiosaddrB ignored => Sys2Proof.Machine.execWsReqBiosaddrB ignored s
  | .wsReqOther ignored sub => Sys2Proof.Machine.execWsReqOther ignored sub s
  | .wsRaw01 param => Sys2Proof.Machine.execWsRaw01 param s
  | .wsRaw02 param => Sys2Proof.Machine.execWsRaw02 param s
  | .wsRaw op param => Sys2Proof.Machine.execWsRaw op param s
  | .wdPixels hi lo => Sys2Proof.Machine.execWdPixels hi lo s
  | .wdNormal w => Sys2Proof.Machine.execWdNormal w s
  | .rdPixels => Sys2Proof.Machine.execRdPixels s
  | .rdReply => Sys2Proof.Machine.execRdReply s
  | .chainNode node count next => Sys2Proof.Machine.execChainNode node count next s
  | .chainEnd node count => Sys2Proof.Machine.execChainEnd node count s
  | .frzSet => Sys2Proof.Machine.execFrzSet s
  | .frzGet => Sys2Proof.Machine.execFrzGet s
  | .frzInfo => Sys2Proof.Machine.execFrzInfo s
  | .frzOther mode => Sys2Proof.Machine.execFrzOther mode s
  | .init allocOk => Sys2Proof.Machine.execInit allocOk s
  | .shutdown => Sys2Proof.Machine.execShutdown s
  | .openPort => Sys2Proof.Machine.execOpenPort s
  | .closePort => Sys2Proof.Machine.execClosePort s
  | .rs => Sys2Proof.Machine.execRs s
  | .rd => Sys2Proof.Machine.execRd s
  | .rdm n => Sys2Proof.Machine.execRdm n s
  | .wd w => Sys2Proof.Machine.execWd w s
  | .wdm ws => Sys2Proof.Machine.execWdm ws s
  | .chain start => Sys2Proof.Machine.execChain start s
  | .frz mode => Sys2Proof.Machine.execFrz mode s
  | .vsync => Sys2Proof.Machine.execVsync s
  | .areaIn x y w h => Sys2Proof.Machine.execAreaIn x y w h s
  | .areaOut x y w h => Sys2Proof.Machine.execAreaOut x y w h s
  | .kick => Sys2Proof.Machine.execKick s
  | .statSet m => Sys2Proof.Machine.execStatSet m s
  | .statClr m => Sys2Proof.Machine.execStatClr m s
  | .infoStore e v => Sys2Proof.Machine.execInfoStore e v s

end Sys2Proof.Machine
end

