-- ==== Sys2Proof/Machine/Fetch.lean ====
section
/-! DEFINITION. How the next transaction reaches the block: the host and the back end issue
transactions one after another (20_memory.md R89; DESIGN CHOICE, safe: log entry 2), and there is no
program counter (10_state.md R28). -/

namespace Sys2Proof.Machine

/-- The first waiting transaction with the state it runs in (its request taken, the outputs of the
one before it gone); nothing when none waits. An overlapping transaction (20_memory.md R92), a narrow
port access (R83) and undecodable words (log entry 3) have no meaning. The order of these tests, and
asking the width 32 of every request, of entry points and back-end calls too, to which the spec gives
no width, are the model's (DESIGN CHOICE, safe: log entry 24). Command words are read under the
parameters in force. -/
def fetch (s : State) : Except Refusal (Option (Instr × State)) :=
  match s.requests with
  | [] => .ok none
  | r :: rest =>
    if r.overlaps then .error .concurrentAccess
    else if r.accessBits ≠ 32 then .error .narrowPortAccess
    else
      match decode s.cfg r.words with
      | .error e => .error (.undecodable e)
      | .ok i => .ok (some (i, { s with requests := rest, events := [], answer := .nothing }))

/-- A request the spec gives a meaning to: a 32-bit access, alone. A transaction that is no port access
carries the width 32 by convention (log entry 24). -/
def plainRequest (words : List Word) : Request := ⟨32, false, words⟩

end Sys2Proof.Machine
end

