-- ==== Sys2Proof/Machine/Step.lean ====
section
/-! DEFINITION. One step: the first waiting transaction runs to completion (20_memory.md R85). With
none waiting the block waits (70_reset_and_hazards.md R301). -/

namespace Sys2Proof.Machine

def step (s : State) : Host.Outcome State Fault Refusal :=
  match fetch s with
  | .error r => .refused r
  | .ok none => .next s
  | .ok (some (i, t)) => exec i t

/-- The state with the given instruction as the next transaction to run. -/
def State.withFetchWord (s : State) (nbits w : Nat) : State :=
  { s with requests := plainRequest (tablePacket nbits w) :: s.requests }

end Sys2Proof.Machine
end

