-- ==== Sys2Proof/Safety.lean ====
section
/-! DEFINITION. What holds of the block between transactions (10_state.md R36, R37, R41; 20_memory.md
R70; 44_frame_timer.md R241, R242; 45_arithmetic_control.md R401, R406), and the terms that
claims use. -/

namespace Sys2Proof.Machine

/-- A cursor between transactions is idle or inside its bounds (10_state.md R37). -/
abbrev CursorOk (p : Params) (c : Cursor) : Prop := c = Cursor.idle ∨ cursorLegal p c = true

/-- DisplayGeometry inside its ranges (10_state.md R41), the width and the height as the commands
compute them (40_status_port.md R142, R146). -/
structure GeometryOk (p : Params) (g : Geometry) : Prop where
  width : g.size.x = p.dispWidth[g.widthPreset.toNat]'g.widthPreset.isLt
  height : g.size.y = (g.multiplier : Int) * ((g.range.bottom : Int) - g.range.top)
  multiplier : g.multiplier = 1 ∨ g.multiplier = 2
  posX : g.pos.x ≤ 1023
  posY : g.pos.y < p.vramRows
  left : g.range.left ≤ 4095
  right : g.range.right ≤ 4095
  top : g.range.top ≤ 1023
  bottom : g.range.bottom ≤ 1023

/-- The frame timer of a block that is not off: rates positive, the period that of the target rate. -/
structure RatesOk (p : Params) (ft : FrameTimer) : Prop where
  target : 0 < ft.targetFps
  duration : ft.targetDuration = durationOf p ft.targetFps
  measured : 0 < ft.measuredFps
  displayed : 0 < ft.displayedFps

/-- The invariant of the machine between transactions. -/
structure Inv (s : State) : Prop where
  /-- VRAM is in canonical form and ends at `VRAM_BYTES` (20_memory.md R70). -/
  vramWf : memWf s.vram
  vramBelow : memBelow s.cfg.vramBytes s.vram
  /-- System memory and the save-state image are in canonical form. -/
  sysMemWf : memWf s.sysMem
  imgWf : memWf s.img.bytes
  imgBelow : memBelow s.img.size s.img.bytes
  /-- The cursors (10_state.md R37); one that is armed has its direction in VramTransfer mode. -/
  cinOk : CursorOk s.cfg s.cin
  coutOk : CursorOk s.cfg s.cout
  cinMode : s.cin ≠ Cursor.idle → s.inMode = .vramTransfer
  coutMode : s.cout ≠ Cursor.idle → s.outMode = .vramTransfer
  /-- The counters (45_arithmetic_control.md R401; 10_state.md R26, R39, R40, R44). -/
  rdcntLe : s.rdcnt ≤ 1
  busyLe : s.busy ≤ s.cfg.busySeqInit
  slotLe : s.saveSlot ≤ 8
  framesLe : s.ft.framesToSkip ≤ 4
  skipLe : s.ft.skipLeft ≤ 4
  geoOk : GeometryOk s.cfg s.geo
  /-- What `INIT` accepted stays in force (43_freeze_lifecycle.md R222). -/
  params : s.life ≠ .off → paramsOk s.cfg = true
  rates : s.life ≠ .off → RatesOk s.cfg s.ft
  /-- No subtraction of the frame timer can go negative (45_arithmetic_control.md R406). -/
  measureOrder : s.life = .opened → s.ft.lastMeasure ≤ s.clock.now
  displayOrder : s.life = .opened → s.ft.lastDisplay ≤ s.clock.now

/-! ## The terms claims use -/

/-- Transactions one after another, each from the state the one before it left (20_memory.md R89). -/
def runInstrs : List Instr → State → Res State
  | [], s => .next s
  | i :: is, s => andThen (exec i s) (runInstrs is)

/-- Cell `k` of the window `x, y, w, ..` (41_vram_transfer.md R182). -/
def windowCell (p : Params) (x y w k : Nat) : Nat :=
  (y * 1024 + x + 1024 * (k / w) + k % w) % p.vramCells

/-- How many words a window of `w` by `h` cells takes (41_vram_transfer.md R181). -/
def windowWords (w h : Nat) : Nat := (w * h + 1) / 2

/-- Half-word `k` of a stream of words, low half first (20_memory.md R75). -/
def streamHalf (ws : List Word) (k : Nat) : Half := (ws.getD (k / 2) 0).extractLsb' (16 * (k % 2)) 16

/-- The status word with bit `n` alone set, for a field of one bit that lies there (10_state.md R31). -/
def bitAt (n : Nat) : Word := (1 : Word) <<< n

/-- The events that hand words to the back end (41_vram_transfer.md R179). -/
def handedOver (ws : List Word) : List Event := ws.map Event.normalWord

/-- The header word of the node at a masked address (42_dma_chain.md R193). -/
def headerAt (s : State) (a : Addr) : Word := readWord s.sysMem (4 * (a.toNat / 4))

/-- `count` payload words of the node at a masked address (42_dma_chain.md R196). -/
def nodePayload (s : State) (a : Addr) (count : BitVec 8) : List Word :=
  (List.range count.toNat).map fun j => readWord s.sysMem (4 * (a.toNat / 4 + 1 + j))

/-- The payload of the node at a masked address, with the count its header gives. -/
def payloadAt (s : State) (a : Addr) : List Word := nodePayload s a (headerCount (headerAt s a))

/-- The node at a masked address lies inside memory, header and payload (42_dma_chain.md R196;
20_memory.md R82). -/
abbrev nodeInside (s : State) (a : Addr) : Prop :=
  a.toNat / 4 + (headerCount (headerAt s a)).toNat < s.cfg.memWords

/-- Memory leads, from an unmasked address on, through these masked node addresses to a next field
that holds `last`, each node inside memory (42_dma_chain.md R192, R196). -/
def chainLeads (s : State) : Addr → List Addr → Addr → Prop
  | next, [], last => next = last
  | next, a :: rest, last =>
    next ≠ Config.chainEnd ∧ next &&& s.cfg.addrMask = a ∧ nodeInside s a
      ∧ chainLeads s (headerNext (headerAt s a)) rest last

/-- A chain through these nodes that ends in the sentinel (42_dma_chain.md R199). -/
def chainLaid (s : State) (next : Addr) (nodes : List Addr) : Prop :=
  chainLeads s next nodes Config.chainEnd

/-- The masked addresses of the nodes a walk enters from an unmasked address on, one after another,
nodes without payload included: the loop of 42_dma_chain.md R193 with its two last nodes, read off
memory alone, for at most `visits` nodes (R194, R195). -/
def nodesFrom (s : State) : (visits : Nat) → Addr → (seen1 seen2 : Option Addr) → List Addr
  | 0, _, _, _ => []
  | n + 1, next, seen1, seen2 =>
    let a := next &&& s.cfg.addrMask
    if next = Config.chainEnd ∨ seen1 = some a ∨ seen2 = some a then []
    else a :: nodesFrom s n (headerNext (headerAt s a)) (some a) seen1

/-- What the limiting half of a `VSYNC` leaves (44_frame_timer.md R250 to R252, R258): the last
reading it took and the ones still to come, the threshold, and the sleep it asked for. In frame-skip
mode it limits from the sixteenth vsync on. The readings it needs are supplied. -/
def limitTakes (s : State) (now : Nat) (ticks : List Nat) (threshold : Nat)
    (sleeps : List Event) : Prop :=
  let limits : Prop :=
    s.cfg.frameLimitEnabled = true ∧ (s.cfg.frameSkipEnabled = true → 16 ≤ s.ft.laceCount + 1)
  let ms (n : Nat) : Nat := n * s.cfg.ticksPerSecond / 1000
  (¬ limits ∧ now = s.clock.now ∧ ticks = s.clock.ticks ∧ threshold = s.ft.nextUpdate
    ∧ sleeps = [])
  ∨ (limits ∧ ∃ d : Nat, s.clock.ticks = d :: ticks ∧ now = s.clock.now + d
      ∧ s.ft.nextUpdate ≤ now
      ∧ threshold = max (s.ft.nextUpdate + s.ft.targetDuration) now ∧ sleeps = [])
  ∨ (limits ∧ ∃ (d : Nat) (es : List Nat) (e : Nat), s.clock.ticks = d :: es ++ e :: ticks
      ∧ s.clock.now + d + es.sum < s.ft.nextUpdate
      ∧ now = s.clock.now + d + es.sum + e ∧ s.ft.nextUpdate ≤ now
      ∧ threshold = s.ft.nextUpdate + s.ft.targetDuration
      ∧ let rem := s.ft.nextUpdate - (s.clock.now + d)
        sleeps = if s.cfg.ecoMode = true ∧ ms 4 < rem ∧ rem - ms 4 < ms 100
          then [.sleep (rem - ms 4)] else [])

/-- `n` is `q` rounded to the nearest integer, a half away from zero (44_frame_timer.md R257, D37). -/
def roundsTo (q : Rat) (n : Int) : Prop :=
  |q - n| ≤ 1 / 2 ∧ (|q - n| = 1 / 2 → |q| < |(n : Rat)|)

/-- `WS(CTL[k])` for each `k` in order, every word as the table holds it by then, as transactions of
their own (43_freeze_lifecycle.md R215). -/
def runReplay : List (Fin 256) → State → Res State
  | [], s => .next s
  | k :: ks, s => andThen (exec (decodeStatus s.cfg s.ctl[k]) s) (runReplay ks)

/-- A call of the back end that the spec gives a meaning to (41_vram_transfer.md R160,
40_status_port.md R138). -/
def callAllowed (p : Params) : BackendCall → Prop
  | .defineArea _ x y w h => areaInRange p x y w h = true
  | .statSet m => maskInRange m = true
  | .statClr m => maskInRange m = true
  | .busyKick | .infoStore _ _ => True

end Sys2Proof.Machine
end

