-- ==== Sys2Proof/Certificates/Slice0/Obligations.lean ====
section
/-! DEFINITION. The statements for the provers. Most rules of spec/ carry the mark of one of the
spec's own decisions or derivations; a statement that formalises such a rule is called derived here
and names the decision it rests on. -/

section Statements

open Sys2Proof Sys2Proof.Machine

/-! ## Words and transactions -/

/-- Every well-formed transaction is read back from its words, whatever numbers the parameters give the
opcodes and sub-codes (30_encoding.md sections 2 to 6; D3, D24). The selector words are the model's
own (log entry 3), and so is the exact reading of 'distinct' numbers (log entry 23). -/
def Obligations.DecodeOfEncode : Prop :=
  ∀ (p : Params) (i : Instr), codesOk p = true → i.wellFormed p = true →
    decode p (encode p i) = .ok i

/-- Every packet that decodes is the packet of the transaction it decodes to, and that transaction is
well-formed: no two packets mean the same, no bit is dropped. It holds for any numbers, distinct or
not (the model tests them in the order of the spec's table). -/
def Obligations.EncodeOfDecode : Prop :=
  ∀ (p : Params) (ws : List Word) (i : Instr), decode p ws = .ok i →
    i.wellFormed p = true ∧ encode p i = ws

/-- Words of 95_test_vectors.md and their transactions under the default numbers (30_encoding.md
section 7), and one of them under numbers of a caller's own (D3). -/
def Obligations.SpecWordsDecode : Prop :=
  let p := Params.defaults false
  decode p [0x00ABCDEF, 0] = .ok (.wsReset 0xABCDEF)
    ∧ decode p [0x05000C10, 0] = .ok (.wsPos 3 16)
    ∧ decode p [0x06C60260, 0] = .ok (.wsHrange 0xC60 0x260)
    ∧ decode p [0x07F40010, 0] = .ok (.wsVrange 15 256 16)
    ∧ decode p [0x08000029, 0] = .ok (.wsInfo 0 0 0 1 0 1 0 1)
    ∧ decode p [0x10ABCD07, 0] = .ok (.wsReqGputype 0xABCD)
    ∧ decode p [0xFF123456, 0] = .ok (.wsRaw 0xFF 0x123456)
    ∧ decode
        { p with ops := { p.ops with gpuRequest := 0xFF }, reqs := { p.reqs with texwin := 0x56 } }
        [0xFF123456, 0] = .ok (.wsReqTexwin 0x1234)

/-- A step runs the first waiting transaction in the state it left behind: its request taken (the queue
is the model's own, log entry 2), the outputs of the transaction before it cleared (the model's
choice, log entry 14). A transaction that is no port access carries the width 32 by convention (log
entry 24). -/
def Obligations.StepRunsDecodedInstr : Prop :=
  ∀ (s : State) (r : Request) (rest : List Request) (i : Instr), s.requests = r :: rest →
    r.overlaps = false → r.accessBits = 32 → decode s.cfg r.words = .ok i →
      step s = exec i { s with requests := rest, events := [], answer := .nothing }

/-- What stops a step before any transaction runs, in the order of the tests, and a step with nothing
to do (D48; 20_memory.md sections 4 and 8; log entries 2 and 3). The order of the tests, and that the
width is asked of requests that are no port access, are the model's choice (log entry 24). -/
def Obligations.StepStopsOrWaits : Prop :=
  ∀ s : State,
    (s.requests = [] → step s = .next s)
    ∧ ∀ (r : Request) (rest : List Request), s.requests = r :: rest →
        (r.overlaps = true → step s = .refused .concurrentAccess)
        ∧ (r.overlaps = false → r.accessBits ≠ 32 → step s = .refused .narrowPortAccess)
        ∧ ∀ e : DecodeError, r.overlaps = false → r.accessBits = 32 →
            decode s.cfg r.words = .error e →
            step s = .refused (.undecodable e)

/-! ## The invariant -/

/-- Every step keeps the invariant, from every state that has it. -/
def Obligations.InvKeptByStep : Prop :=
  ∀ s t : State, Machine.Inv s → step s = .next t → Machine.Inv t

/-- The state after reset has the invariant. -/
def Obligations.InvAtReset : Prop := Machine.Inv State.reset

/-- No cursor escapes: from a state with the invariant no step meets the defect, and after it both
cursors are inside VRAM (60_exceptions.md R273). -/
def Obligations.NoCursorEscapes : Prop :=
  ∀ s : State, Machine.Inv s →
    (∀ f : Fault, step s ≠ .fault f)
    ∧ ∀ t : State, step s = .next t →
        t.cin.cur < t.cfg.vramKb * 1024 ∧ t.cout.cur < t.cfg.vramKb * 1024

/-- The items of the spec's reset table that it gives a value (10_state.md section 10; D25, D26, D33,
D34, D46), and the numbers and field positions in force (D3, D5, D24). Nothing is said of `GDATA` and
of the five timer registers it leaves open. That the machine after reset is Ready is the model's
reading (log entry 7); that its rate is the plain NTSC rate with 16 ticks rests on the model's choice
of the configuration at reset (log entry 12), that the parameters are the defaults on log entry 4. -/
def Obligations.ResetValues : Prop :=
  State.reset.life = .ready ∧ State.reset.stat = 0x14802000
    ∧ (∀ k : Fin 256, State.reset.ctl[k] = 0)
    ∧ State.reset.info = ⟨0, 0, 0, 0⟩ ∧ State.reset.saveSlot = 0
    ∧ State.reset.inMode = .normal ∧ State.reset.outMode = .normal
    ∧ State.reset.cin = ⟨0, 0, 0, 0, 0, 0, 0⟩ ∧ State.reset.cout = ⟨0, 0, 0, 0, 0, 0, 0⟩
    ∧ (∀ a : Nat, readByte State.reset.vram a = 0)
    ∧ State.reset.vsyncReady = false ∧ State.reset.rdcnt = 0 ∧ State.reset.busy = 0
    ∧ State.reset.geo =
      { size := ⟨256, 0⟩, pos := ⟨0, 0⟩, dispEnd := ⟨0, 0⟩, range := ⟨0, 0, 0, 0⟩
        prev := ⟨⟨0, 0⟩, ⟨0, 0⟩, ⟨0, 0⟩, ⟨0, 0, 0, 0⟩⟩
        widthPreset := 0, multiplier := 1, depth := .bits15, localization := .ntsc
        interlacing := false }
    ∧ State.reset.ft.targetFps = State.reset.cfg.fpsNtsc ∧ State.reset.ft.targetDuration = 16
    ∧ State.reset.ft.framesToSkip = 0 ∧ State.reset.ft.skipLeft = 0
    ∧ State.reset.ft.laceCount = 0
    ∧ State.reset.cfg.ops = ⟨0x00, 0x03, 0x04, 0x05, 0x06, 0x07, 0x08, 0x10⟩
    ∧ State.reset.cfg.reqs = ⟨0x02, 0x03, 0x04, 0x05, 0x06, 0x07, 0x08, 0x0F⟩
    ∧ State.reset.cfg.statLayout = ⟨31, 29, 28, 27, 26, 23, 22, 21, 20, 19, 16, 12, 11, 10, 9⟩

/-! ## The status port -/

/-- Every 32-bit word written to the status port is a command, whatever numbers the parameters give
the opcodes: the step that runs it answers a next state, and returns nothing (40_status_port.md
section 1, R131). That the step takes its own request from a queue is the model's choice (log entry
2), and selector 0 says that the word goes to the status port (log entry 3). -/
def Obligations.EveryStatusWordIsACommand : Prop :=
  ∀ (w : Word) (s : State) (rest : List Request), s.life ≠ .off →
    s.requests = plainRequest [w, 0] :: rest →
      ∃ t : State, step s = .next t ∧ t.answer = .nothing ∧ t.requests = rest

/-- What a status-port word writes: its slot of the control table always; a cursor only if it is a
Reset, a mode only if it is a Reset or a SetTransferMode, and of `STAT` only the fields of its
command (40_status_port.md section 5, derived there). -/
def Obligations.CommandWritesOwnFields : Prop :=
  ∀ (w : Word) (s : State), s.life ≠ .off →
    let op : BitVec 8 := w.extractLsb' 24 8
    let l := s.cfg.statLayout
    ∃ (i : Instr) (t : State), decode s.cfg [w, 0] = .ok i ∧ exec i s = .next t
      ∧ t = { s with
          ctl := s.ctl.set op.toNat w op.isLt
          stat := t.stat, gdata := t.gdata, info := t.info, inMode := t.inMode
          outMode := t.outMode, cin := t.cin, cout := t.cout, vsyncReady := t.vsyncReady
          geo := t.geo, ft := t.ft, events := t.events }
      ∧ (op ≠ s.cfg.ops.reset → t.cin = s.cin ∧ t.cout = s.cout ∧ t.info = s.info)
      ∧ (op ≠ s.cfg.ops.reset → op ≠ s.cfg.ops.setTransferMode →
          t.inMode = s.inMode ∧ t.outMode = s.outMode)
      ∧ (op ≠ s.cfg.ops.gpuRequest → t.gdata = s.gdata)
      ∧ let written : Word :=
          if op = s.cfg.ops.reset then 0xFFFFFFFF
          else if op = s.cfg.ops.toggleDisplay then bitAt l.displayDisabled
          else if op = s.cfg.ops.setTransferMode then (3 : Word) <<< l.dmaDirection
          else if op = s.cfg.ops.setDisplayInfo then
            bitAt l.interlaced ||| bitAt l.rgb24 ||| bitAt l.pal ||| bitAt l.doubleHeight
              ||| (7 : Word) <<< l.widthBits
          else 0
        t.stat &&& ~~~written = s.stat &&& ~~~written

/-- Reset (D25): the warm reset, and every item it does not list left as it was. -/
def Obligations.ResetCommand : Prop :=
  ∀ (param : BitVec 24) (s : State), s.life ≠ .off →
    exec (.wsReset param) s = .next { s with
      ctl := s.ctl.set s.cfg.ops.reset.toNat (s.cfg.ops.reset ++ param) s.cfg.ops.reset.isLt
      inMode := .normal
      outMode := .normal
      cin := ⟨0, 0, 0, 0, 0, 0, 0⟩
      cout := ⟨0, 0, 0, 0, 0, 0, 0⟩
      geo :=
        { size := ⟨s.cfg.dispWidth[0], 0⟩, pos := ⟨0, 0⟩, dispEnd := ⟨0, 0⟩
          range := ⟨0, 0, 0, 0⟩, prev := ⟨⟨0, 0⟩, ⟨0, 0⟩, ⟨0, 0⟩, ⟨0, 0, 0, 0⟩⟩
          widthPreset := 0, multiplier := 1, depth := .bits15, localization := .ntsc
          interlacing := false }
      stat := 0x14802000
      info := ⟨0, 0, 0, 0⟩ }

/-- ToggleDisplay (D23). -/
def Obligations.ToggleDisplayCommand : Prop :=
  ∀ (ignored : BitVec 23) (off : BitVec 1) (s : State), s.life ≠ .off →
    let op := s.cfg.ops.toggleDisplay
    let dd := s.cfg.statLayout.displayDisabled
    exec (.wsDisplay ignored off) s = .next { s with
      ctl := s.ctl.set op.toNat (op ++ ignored ++ off) op.isLt
      stat := if off = 1 then s.stat ||| bitAt dd else s.stat &&& ~~~bitAt dd
      events := s.events ++
        if s.stat.getLsbD dd = true ∧ off = 0 ∧ s.geo.depth = .bits15 then [.uploadFullscreen]
        else [] }

/-- SetTransferMode (D14): `DmaDirection` takes `m`, the modes only ever enter VramTransfer. -/
def Obligations.SetTransferModeCommand : Prop :=
  ∀ (ignored : BitVec 22) (m : BitVec 2) (s : State), s.life ≠ .off →
    let op := s.cfg.ops.setTransferMode
    let dir := s.cfg.statLayout.dmaDirection
    exec (.wsMode ignored m) s = .next { s with
      ctl := s.ctl.set op.toNat (op ++ ignored ++ m) op.isLt
      stat := (s.stat &&& ~~~((3 : Word) <<< dir)) ||| (m.setWidth 32 <<< dir)
      inMode := if m = 3 then .vramTransfer else s.inMode
      outMode := if m = 2 ∨ m = 3 then .vramTransfer else s.outMode }

/-- SetDisplayPosition (D19). -/
def Obligations.SetDisplayPositionCommand : Prop :=
  ∀ (yField : BitVec 14) (x : BitVec 10) (s : State), s.life ≠ .off →
    let op := s.cfg.ops.setDisplayPosition
    let y := min (yField.toNat % 2 ^ s.cfg.posYBits) (s.cfg.vramKb - 1)
    exec (.wsPos yField x) s = .next { s with
      ctl := s.ctl.set op.toNat (op ++ yField ++ x) op.isLt
      geo := { s.geo with
        prev := { s.geo.prev with pos := s.geo.pos, dispEnd := s.geo.dispEnd }
        pos := ⟨x.toNat, y⟩
        dispEnd := ⟨x.toNat + s.geo.size.x, y + s.geo.size.y⟩ }
      vsyncReady := true }

/-- SetDisplayWidth (D20). -/
def Obligations.SetDisplayWidthCommand : Prop :=
  ∀ (right left : BitVec 12) (s : State), s.life ≠ .off →
    let op := s.cfg.ops.setDisplayWidth
    exec (.wsHrange right left) s = .next { s with
      ctl := s.ctl.set op.toNat (op ++ right ++ left) op.isLt
      geo := { s.geo with
        prev := { s.geo.prev with
          range := { s.geo.prev.range with left := s.geo.range.left, right := s.geo.range.right } }
        range := { s.geo.range with left := left.toNat, right := right.toNat } } }

/-- SetDisplayHeight (D21): nothing but the store when neither bound changes. -/
def Obligations.SetDisplayHeightCommand : Prop :=
  ∀ (ignored : BitVec 4) (bottom top : BitVec 10) (s : State), s.life ≠ .off →
    let op := s.cfg.ops.setDisplayHeight
    exec (.wsVrange ignored bottom top) s =
      if top.toNat = s.geo.range.top ∧ bottom.toNat = s.geo.range.bottom then
        .next { s with ctl := s.ctl.set op.toNat (op ++ ignored ++ bottom ++ top) op.isLt }
      else
        .next { s with
          ctl := s.ctl.set op.toNat (op ++ ignored ++ bottom ++ top) op.isLt
          geo := { s.geo with
            prev := { s.geo.prev with
              range :=
                { s.geo.prev.range with top := s.geo.range.top, bottom := s.geo.range.bottom }
              size := s.geo.size }
            range := { s.geo.range with top := top.toNat, bottom := bottom.toNat }
            size := ⟨s.geo.size.x,
              (s.geo.multiplier : Int) * ((bottom.toNat : Int) - (top.toNat : Int))⟩ }
          events := s.events ++ [.displayRefresh] }

/-- SetDisplayInfo (D22, D38): the geometry, the five derived fields of `STAT`, and the frame timer's
rate when the rate is selected automatically (the selection is stated on its own). The parameters are
ones `INIT` accepts, so that no two fields of `STAT` overlap (log entry 23). -/
def Obligations.SetDisplayInfoCommand : Prop :=
  ∀ (ignored : BitVec 16) (ignored7 presetHi lace rgb24 pal dbl : BitVec 1) (presetLo : BitVec 2)
    (s : State), s.life ≠ .off → paramsOk s.cfg = true →
    let op := s.cfg.ops.setDisplayInfo
    let l := s.cfg.statLayout
    let preset : BitVec 3 := presetHi ++ presetLo
    let multiplier : Nat := if dbl = 1 then 2 else 1
    let localization : Localization := if pal = 1 then .pal else .ntsc
    let rate := rateOf s.cfg localization (lace == 1)
    exec (.wsInfo ignored ignored7 presetHi lace rgb24 pal dbl presetLo) s = .next { s with
      ctl := s.ctl.set op.toNat (op ++ ignored ++ ignored7 ++ presetHi ++ lace ++ rgb24 ++ pal ++ dbl
        ++ presetLo) op.isLt
      geo := { s.geo with
        prev := { s.geo.prev with size := s.geo.size }
        widthPreset := preset
        size := ⟨s.cfg.dispWidth[preset.toNat]'preset.isLt,
          (multiplier : Int) * ((s.geo.range.bottom : Int) - (s.geo.range.top : Int))⟩
        multiplier := multiplier
        localization := localization
        depth := if rgb24 = 1 then .bits24 else .bits15
        interlacing := lace == 1 }
      stat := (s.stat &&& ~~~(bitAt l.interlaced ||| bitAt l.rgb24 ||| bitAt l.pal
            ||| bitAt l.doubleHeight ||| (7 : Word) <<< l.widthBits))
        ||| lace.setWidth 32 <<< l.interlaced ||| rgb24.setWidth 32 <<< l.rgb24
        ||| pal.setWidth 32 <<< l.pal ||| dbl.setWidth 32 <<< l.doubleHeight
        ||| presetLo.setWidth 32 <<< (l.widthBits + 1) ||| presetHi.setWidth 32 <<< l.widthBits
      ft :=
        if s.cfg.autoDetectRate then
          { s.ft with
            targetFps := rate
            targetDuration := ((s.cfg.ticksPerSecond : Rat) / rate).floor.toNat
            laceCount := 0 }
        else s.ft }

/-- Which of the seven rates is selected (D34). -/
def Obligations.RateSelection : Prop :=
  ∀ (p : Params) (l : Localization) (lace : Bool),
    (p.autoDetectRate = false → rateOf p l lace = p.fixedFps)
    ∧ (p.autoDetectRate = true → p.fixFpsLimit = true →
        rateOf p .pal lace = p.fpsPalFix ∧ rateOf p .ntsc lace = p.fpsNtscFix)
    ∧ (p.autoDetectRate = true → p.fixFpsLimit = false →
        rateOf p .pal true = p.fpsPalLace ∧ rateOf p .pal false = p.fpsPal
        ∧ rateOf p .ntsc true = p.fpsNtscLace ∧ rateOf p .ntsc false = p.fpsNtsc)

/-- GpuRequest (D24): each sub-code's reply goes to `GDATA`, any other sub-code leaves it. -/
def Obligations.GpuRequestReplies : Prop :=
  ∀ (ignored : BitVec 16) (s : State), s.life ≠ .off →
    let op := s.cfg.ops.gpuRequest
    let replies (sub : BitVec 8) (v : Word) : Res State :=
      .next { s with ctl := s.ctl.set op.toNat (op ++ ignored ++ sub) op.isLt, gdata := v }
    exec (.wsReqTexwin ignored) s = replies s.cfg.reqs.texwin s.info.texwin
    ∧ exec (.wsReqDrawstart ignored) s = replies s.cfg.reqs.drawstart s.info.drawstart
    ∧ exec (.wsReqDrawend ignored) s = replies s.cfg.reqs.drawend s.info.drawend
    ∧ exec (.wsReqDrawoffA ignored) s = replies s.cfg.reqs.drawoffA s.info.drawoff
    ∧ exec (.wsReqDrawoffB ignored) s = replies s.cfg.reqs.drawoffB s.info.drawoff
    ∧ exec (.wsReqGputype ignored) s = replies s.cfg.reqs.gputype s.cfg.gpuTypeValue
    ∧ exec (.wsReqBiosaddrA ignored) s = replies s.cfg.reqs.biosaddrA s.cfg.biosAddrValue
    ∧ exec (.wsReqBiosaddrB ignored) s = replies s.cfg.reqs.biosaddrB s.cfg.biosAddrValue
    ∧ ∀ sub : BitVec 8, exec (.wsReqOther ignored sub) s = replies sub s.gdata

/-- Unassigned opcodes (D4): the word is stored, nothing else happens. -/
def Obligations.UnassignedOpcodesOnlyStore : Prop :=
  ∀ (param : BitVec 24) (s : State), s.life ≠ .off →
    exec (.wsRaw01 param) s = .next { s with ctl := s.ctl.set 1 ((0x01 : BitVec 8) ++ param) }
    ∧ exec (.wsRaw02 param) s = .next { s with ctl := s.ctl.set 2 ((0x02 : BitVec 8) ++ param) }
    ∧ ∀ op : BitVec 8,
        exec (.wsRaw op param) s
          = .next { s with ctl := s.ctl.set op.toNat (op ++ param) op.isLt }

/-- The status read (D6, D7, D8): the fake-busy update, the sample, then the odd/even count. -/
def Obligations.StatusReadResult : Prop :=
  ∀ s : State, s.life ≠ .off →
    let l := s.cfg.statLayout
    let ready : Word := bitAt l.readyForCommands ||| bitAt l.idle
    let sample : Word :=
      if s.busy = 0 then s.stat
      else if s.busy % 2 = 0 then s.stat &&& ~~~ready
      else s.stat ||| ready
    exec .rs s = .next { s with
      busy := s.busy - 1
      rdcnt := if s.cfg.fixOddEvenBit then (if s.rdcnt = 1 then 0 else s.rdcnt + 1) else s.rdcnt
      stat := if s.cfg.fixOddEvenBit = true ∧ s.rdcnt = 1 then sample ^^^ bitAt l.oddLines else sample
      answer := .word sample }

/-- Which side effects of a status read are active (40_status_port.md R133). -/
def Obligations.StatusReadIsPure : Prop :=
  ∀ s : State, s.life ≠ .off →
    ∃ t : State, exec .rs s = .next t
      ∧ (s.busy = 0 → t.busy = 0 ∧ t.answer = .word s.stat)
      ∧ (s.cfg.fixOddEvenBit = false → t.rdcnt = s.rdcnt ∧ t.answer = .word t.stat)
      ∧ (s.busy = 0 → s.cfg.fixOddEvenBit = false → t = { s with answer := .word s.stat })

/-- Four reads with the fix on: the bit of `OddLines` reads `v, v, not v, not v` (D6, D7). The
parameters are ones `INIT` accepts, so that the field is a bit of its own (log entry 23). -/
def Obligations.FourStatusReads : Prop :=
  ∀ s : State, s.life ≠ .off → paramsOk s.cfg = true → s.cfg.fixOddEvenBit = true → s.rdcnt = 0 →
    let k := s.cfg.statLayout.oddLines
    ∃ (t1 t2 t3 t4 : State) (r1 r2 r3 r4 : Word),
      exec .rs s = .next t1 ∧ exec .rs t1 = .next t2 ∧ exec .rs t2 = .next t3
      ∧ exec .rs t3 = .next t4
      ∧ t1.answer = .word r1 ∧ t2.answer = .word r2 ∧ t3.answer = .word r3 ∧ t4.answer = .word r4
      ∧ r1.getLsbD k = s.stat.getLsbD k ∧ r2.getLsbD k = s.stat.getLsbD k
      ∧ r3.getLsbD k = !s.stat.getLsbD k ∧ r4.getLsbD k = !s.stat.getLsbD k

/-- A fake-busy sequence ends, after as many reads as it counts, with both flags on (D8); it wrote no
bit but those two and, under the fix, `OddLines`. The parameters are ones `INIT` accepts, so that the
fields are apart (log entry 23). -/
def Obligations.FakeBusyEndsReady : Prop :=
  ∀ s : State, s.life ≠ .off → paramsOk s.cfg = true → 0 < s.busy →
    let l := s.cfg.statLayout
    let ready : Word := bitAt l.readyForCommands ||| bitAt l.idle
    let others : Word := ~~~(ready ||| bitAt l.oddLines)
    ∃ t : State, runInstrs (List.replicate s.busy .rs) s = .next t
      ∧ t.busy = 0
      ∧ t.stat &&& ready = ready
      ∧ t.stat &&& others = s.stat &&& others
      ∧ (s.cfg.fixOddEvenBit = false → t.stat = s.stat ||| ready)
      ∧ t = { s with stat := t.stat, busy := 0, rdcnt := t.rdcnt, answer := t.answer }

/-- The back end's calls on the status register and the raw-info table (D9, D47); a mask with a bit
above 15 has no meaning. -/
def Obligations.BackendStatusCalls : Prop :=
  ∀ s : State, s.life ≠ .off →
    exec .kick s = .next { s with busy := s.cfg.busySeqInit }
    ∧ (∀ m : Word, exec (.statSet m) s =
        if m.toNat < 65536 then .next { s with stat := s.stat ||| m } else .refused .backendStatMask)
    ∧ (∀ m : Word, exec (.statClr m) s =
        if m.toNat < 65536 then .next { s with stat := s.stat &&& ~~~m }
        else .refused .backendStatMask)
    ∧ ∀ v : Word,
        exec (.infoStore .texwin v) s = .next { s with info := { s.info with texwin := v } }
        ∧ exec (.infoStore .drawstart v) s = .next { s with info := { s.info with drawstart := v } }
        ∧ exec (.infoStore .drawend v) s = .next { s with info := { s.info with drawend := v } }
        ∧ exec (.infoStore .drawoff v) s = .next { s with info := { s.info with drawoff := v } }

/-! ## The data port -/

/-- `DEFINE_AREA` (D11, D12, D13): inside its ranges it arms its own direction and no more; outside
them it has no meaning. -/
def Obligations.DefineArea : Prop :=
  ∀ (x y w h : Word) (s : State), s.life ≠ .off →
    (exec (.areaIn x y w h) s =
      if 0 ≤ x.toInt ∧ x.toInt ≤ 1023 ∧ 0 ≤ y.toInt ∧ y.toInt < s.cfg.vramKb ∧ 1 ≤ w.toInt
          ∧ w.toInt ≤ 1024 ∧ 1 ≤ h.toInt ∧ h.toInt ≤ s.cfg.vramKb then
        .next { s with
          cin := ⟨x.toNat, y.toNat, w.toNat, h.toNat, w.toNat, h.toNat, y.toNat * 1024 + x.toNat⟩
          inMode := .vramTransfer
          stat := s.stat ||| bitAt s.cfg.statLayout.readyForVram }
      else .refused .defineAreaRange)
    ∧ exec (.areaOut x y w h) s =
      if 0 ≤ x.toInt ∧ x.toInt ≤ 1023 ∧ 0 ≤ y.toInt ∧ y.toInt < s.cfg.vramKb ∧ 1 ≤ w.toInt
          ∧ w.toInt ≤ 1024 ∧ 1 ≤ h.toInt ∧ h.toInt ≤ s.cfg.vramKb then
        .next { s with
          cout := ⟨x.toNat, y.toNat, w.toNat, h.toNat, w.toNat, h.toNat, y.toNat * 1024 + x.toNat⟩
          outMode := .vramTransfer }
      else .refused .defineAreaRange

/-- The move past one cell (41_vram_transfer.md R164), with the index reduced modulo the number of
cells, which one `norm` is enough for; the window is exhausted exactly when no row is left. -/
def Obligations.StepCursorRule : Prop :=
  ∀ (p : Params) (c : Cursor), cursorLegal p c = true →
    stepCursor (p.vramKb * 1024) c =
        (if c.rr = 1 then
          { c with
            cur := (c.cur + 1 + (1024 - c.w)) % (p.vramKb * 1024), rr := c.w, rc := c.rc - 1 }
        else { c with cur := (c.cur + 1) % (p.vramKb * 1024), rr := c.rr - 1 })
    ∧ (cursorLegal p (stepCursor (p.vramKb * 1024) c) = true
        ↔ (stepCursor (p.vramKb * 1024) c).rc ≠ 0)

/-- Data-port reads in Normal mode (D16, D51): `RD` returns the latch, `RDM` produces nothing; nothing
else changes. That `rd.pixels` and `rd.reply` are the same read, whose form the mode alone decides,
is the model's reading of 30_encoding.md section 4 (log entry 6). -/
def Obligations.NormalModeReads : Prop :=
  ∀ (n : Word) (s : State), s.life ≠ .off → s.inMode = .normal →
    exec .rd s = .next { s with answer := .word s.gdata }
    ∧ exec .rdReply s = .next { s with answer := .word s.gdata }
    ∧ exec .rdPixels s = .next { s with answer := .word s.gdata }
    ∧ exec (.rdm n) s = .next { s with answer := .words [] }

/-- A single-word read of an armed transfer (D15, D16): two cells from the cursor on, latched; the
transfer ends in the same transaction as its last cell. VRAM is not written. That `rd.reply` of an
armed transfer reads pixels too is the model's reading of 30_encoding.md section 4 (log entry 6). -/
def Obligations.ArmedReadProducesOneWord : Prop :=
  ∀ s : State, s.life ≠ .off → s.inMode = .vramTransfer → cursorLegal s.cfg s.cin = true →
    let c1 := stepCursor (s.cfg.vramKb * 1024) s.cin
    let c2 := if c1.rc = 0 then c1 else stepCursor (s.cfg.vramKb * 1024) c1
    let w : Word := readHalf s.vram c1.cur ++ readHalf s.vram s.cin.cur
    let t : State := { s with
      gdata := w
      answer := .word w
      cin := if c2.rc = 0 then ⟨0, 0, 0, 0, 0, 0, 0⟩ else c2
      inMode := if c2.rc = 0 then .normal else .vramTransfer
      stat := if c2.rc = 0 then s.stat &&& ~~~bitAt s.cfg.statLayout.readyForVram else s.stat }
    exec .rd s = .next t ∧ exec .rdPixels s = .next t ∧ exec .rdReply s = .next t

/-- Chunks compose (D16): `RDM(a)` then `RDM(b)` give the words and the state of `RDM(a + b)`. -/
def Obligations.ReadChunksCompose : Prop :=
  ∀ (a b : Word) (s : State), Machine.Inv s → s.life ≠ .off → a.toNat + b.toNat < 2 ^ 32 →
    ∃ (t u : State) (xs ys : List Word),
      exec (.rdm a) s = .next t ∧ t.answer = .words xs ∧ xs.length ≤ a.toNat
      ∧ exec (.rdm b) t = .next u ∧ u.answer = .words ys
      ∧ exec (.rdm (a + b)) s = .next { u with answer := .words (xs ++ ys) }

/-- A whole read transfer (41_vram_transfer.md section 5, D15, D16): a freshly armed window of `w` by
`h` cells gives exactly `ceil (w * h / 2)` words however many more are asked for; half-word `k` is
cell `k` of the window; the odd half-word left over is the cell below the window's first column. -/
def Obligations.WholeWindowReadBack : Prop :=
  ∀ (x y w h : Nat) (n : Word) (s : State), s.life ≠ .off → s.inMode = .vramTransfer →
    x ≤ 1023 → y < s.cfg.vramKb → 1 ≤ w → w ≤ 1024 → 1 ≤ h → h ≤ s.cfg.vramKb →
    s.cin = ⟨x, y, w, h, w, h, y * 1024 + x⟩ → windowWords w h ≤ n.toNat →
    ∃ ws : List Word,
      exec (.rdm n) s = .next { s with
        gdata := ws.getLastD 0
        answer := .words ws
        cin := ⟨0, 0, 0, 0, 0, 0, 0⟩
        inMode := .normal
        stat := s.stat &&& ~~~bitAt s.cfg.statLayout.readyForVram }
      ∧ ws.length = windowWords w h
      ∧ (∀ k < w * h, streamHalf ws k = readHalf s.vram (windowCell s.cfg x y w k))
      ∧ (w * h % 2 = 1 →
          streamHalf ws (w * h) = readHalf s.vram ((y * 1024 + x + 1024 * h) % (s.cfg.vramKb * 1024)))

/-- An access that finds its direction in VramTransfer mode with an idle cursor first completes the
empty transfer, then proceeds in Normal mode (D18), in every form of the access and whatever the back
end does; a chunk of no words looks at nothing. The last clause spells the writes out for a back end
that answers with no call (log entry 11); that the forms with a row of their own are the same reads
and writes is the model's reading (log entry 6). -/
def Obligations.IdleCursorRetires : Prop :=
  ∀ (n w : Word) (hi lo : Half) (ws : List Word) (s : State), s.life ≠ .off →
    (s.inMode = .vramTransfer → s.cin = ⟨0, 0, 0, 0, 0, 0, 0⟩ →
      let t : State := { s with
        inMode := .normal, stat := s.stat &&& ~~~bitAt s.cfg.statLayout.readyForVram }
      (∀ i ∈ [Instr.rd, .rdPixels, .rdReply], exec i s = .next { t with answer := .word s.gdata })
      ∧ exec (.rdm n) s = .next { t with answer := .words [] })
    ∧ (s.outMode = .vramTransfer → s.cout = ⟨0, 0, 0, 0, 0, 0, 0⟩ →
      exec (.wdm []) s = .next s
      ∧ (∀ i ∈ [Instr.wd w, .wdNormal w, .wdPixels hi lo, .wdm (w :: ws)],
          exec i s = exec i { s with outMode := .normal })
      ∧ (s.backend = [] →
          let handed (vs : List Word) : Res State :=
            .next { s with outMode := .normal, events := s.events ++ handedOver vs }
          exec (.wd w) s = handed [w] ∧ exec (.wdNormal w) s = handed [w]
          ∧ exec (.wdPixels hi lo) s = handed [hi ++ lo]
          ∧ exec (.wdm (w :: ws)) s = handed (w :: ws)))

/-- A word written to an armed transfer (D17, D50), in every form of the write: the low half at the
cursor, the high half one step on unless the low half was the last cell of the window; the transfer
ends with its last cell. Every other byte of VRAM and every other field is left as it was. That
`wd.normal` of an armed transfer stores its two halves is the model's reading (log entry 6). -/
def Obligations.PixelWordStores : Prop :=
  ∀ (hi lo : Half) (s : State), s.life ≠ .off → memWf s.vram → s.outMode = .vramTransfer →
    cursorLegal s.cfg s.cout = true →
    let c1 := stepCursor (s.cfg.vramKb * 1024) s.cout
    let c2 := if c1.rc = 0 then c1 else stepCursor (s.cfg.vramKb * 1024) c1
    ∃ t : State,
      exec (.wdPixels hi lo) s = .next t ∧ exec (.wd (hi ++ lo)) s = .next t
      ∧ exec (.wdNormal (hi ++ lo)) s = .next t ∧ exec (.wdm [hi ++ lo]) s = .next t
      ∧ t = { s with
          vram := t.vram
          cout := if c2.rc = 0 then ⟨0, 0, 0, 0, 0, 0, 0⟩ else c2
          outMode := if c2.rc = 0 then .normal else .vramTransfer
          vsyncReady := if c2.rc = 0 then true else s.vsyncReady }
      ∧ ∀ a : Nat, readByte t.vram a =
          if a = 2 * s.cout.cur then lo.extractLsb' 0 8
          else if a = 2 * s.cout.cur + 1 then lo.extractLsb' 8 8
          else if c1.rc ≠ 0 ∧ a = 2 * c1.cur then hi.extractLsb' 0 8
          else if c1.rc ≠ 0 ∧ a = 2 * c1.cur + 1 then hi.extractLsb' 8 8
          else readByte s.vram a

/-- Words written in Normal mode are handed to the back end, unexamined and in order (D50), in every
form of the write; here the back end answers none of them with a call (log entry 11). That
`wd.pixels` in Normal mode hands its word over is the model's reading (log entry 6). -/
def Obligations.NormalWordsHandedOver : Prop :=
  ∀ s : State, s.life ≠ .off → s.outMode = .normal → s.backend = [] →
    (∀ ws : List Word, exec (.wdm ws) s = .next { s with events := s.events ++ handedOver ws })
    ∧ (∀ w : Word, exec (.wd w) s = .next { s with events := s.events ++ [.normalWord w] })
    ∧ (∀ w : Word, exec (.wdNormal w) s = .next { s with events := s.events ++ [.normalWord w] })
    ∧ ∀ hi lo : Half,
        exec (.wdPixels hi lo) s = .next { s with events := s.events ++ [.normalWord (hi ++ lo)] }

/-- A chunk may be cut anywhere (41_vram_transfer.md section 4, D50, D51): its words are consumed in
order, one transaction or two; and `WD(w)` is `WDM([w])`. -/
def Obligations.WriteChunksCompose : Prop :=
  ∀ s : State, s.life ≠ .off →
    (∀ xs ys : List Word, exec (.wdm (xs ++ ys)) s = runInstrs [.wdm xs, .wdm ys] s)
    ∧ ∀ w : Word, exec (.wd w) s = exec (.wdm [w]) s

/-- Arming inside a chunk (D12, D50): when the back end answers a Normal word with a `DEFINE_AREA`
for the output direction, the rest of the chunk meets the armed transfer. -/
def Obligations.BackendArmsInsideChunk : Prop :=
  ∀ (w0 : Word) (ws : List Word) (x y w h : Nat) (rest : List (List BackendCall)) (s : State),
    s.life ≠ .off → s.outMode = .normal →
    s.backend = [.defineArea .output x y w h] :: rest →
    x ≤ 1023 → y < s.cfg.vramKb → 1 ≤ w → w ≤ 1024 → 1 ≤ h → h ≤ s.cfg.vramKb →
    exec (.wdm (w0 :: ws)) s = exec (.wdm ws) { s with
      events := s.events ++ [.normalWord w0]
      backend := rest
      cout := ⟨x, y, w, h, w, h, y * 1024 + x⟩
      outMode := .vramTransfer }

/-- A whole write transfer (41_vram_transfer.md section 5, D17): a freshly armed window of `w` by `h`
cells takes exactly `ceil (w * h / 2)` words; cell `k` of the window holds half-word `k`; every other
byte of VRAM is as it was, the cell after an odd window included; the transfer is over. -/
def Obligations.WholeWindowUpload : Prop :=
  ∀ (x y w h : Nat) (ws : List Word) (s : State), s.life ≠ .off → memWf s.vram →
    s.outMode = .vramTransfer → x ≤ 1023 → y < s.cfg.vramKb → 1 ≤ w → w ≤ 1024 → 1 ≤ h →
    h ≤ s.cfg.vramKb → s.cout = ⟨x, y, w, h, w, h, y * 1024 + x⟩ →
    ws.length = windowWords w h →
    ∃ t : State, exec (.wdm ws) s = .next t
      ∧ t = { s with
          vram := t.vram, cout := ⟨0, 0, 0, 0, 0, 0, 0⟩, outMode := .normal, vsyncReady := true }
      ∧ (∀ k < w * h, readHalf t.vram (windowCell s.cfg x y w k) = streamHalf ws k)
      ∧ ∀ a : Nat, (∀ k < w * h, a / 2 ≠ windowCell s.cfg x y w k) →
          readByte t.vram a = readByte s.vram a

/-- Every write to the data port completes, in every mode, from a state with the invariant, whatever
calls the back end answers with (log entry 11), provided each of them is one the spec gives a meaning
to; no field but these is written. That `wd.normal` and `wd.pixels` run in either mode is the model's
reading (log entry 6). -/
def Obligations.DataWritesComplete : Prop :=
  ∀ (ws : List Word) (w : Word) (hi lo : Half) (s : State), Machine.Inv s → s.life ≠ .off →
    (∀ calls ∈ s.backend, ∀ c ∈ calls, callAllowed s.cfg c) →
    ∀ i ∈ [Instr.wdm ws, .wd w, .wdNormal w, .wdPixels hi lo],
      ∃ t : State, exec i s = .next t
        ∧ t = { s with
            stat := t.stat, busy := t.busy, info := t.info, cin := t.cin, cout := t.cout
            inMode := t.inMode, outMode := t.outMode, vram := t.vram, vsyncReady := t.vsyncReady
            backend := t.backend, events := t.events }
        ∧ let others : Word := 0xFFFF0000 &&& ~~~bitAt s.cfg.statLayout.readyForVram
          t.stat &&& others = s.stat &&& others

/-! ## The chain walker -/

/-- The last node of a walk (D27, D28, D29): its payload goes to the write path as one chunk, in every
mode and whatever the back end does, and the walk stops; in Normal mode, when the back end answers
with no call (log entry 11), every word is handed over. A walk whose first header comes with the
transaction is the model's reading of the row `chain.end` (log entry 6). -/
def Obligations.ChainEndDelivers : Prop :=
  ∀ (node : Addr) (count : BitVec 8) (s : State), s.life ≠ .off → 0 < s.cfg.chainIterCap →
    node ≠ 0xFFFFFF →
    let a := node &&& s.cfg.addrMask
    a.toNat / 4 + count.toNat < s.cfg.memWords →
    exec (.chainEnd node count) s = exec (.wdm (nodePayload s a count)) s
    ∧ (s.outMode = .normal → s.backend = [] →
        exec (.chainEnd node count) s
          = .next { s with events := s.events ++ handedOver (nodePayload s a count) })

/-- A node and the chain laid after it (D27, D28, D29), in every mode and whatever the back end does:
its payload first, then those of the nodes its next field leads to, in order, as one chunk of the
write path. The last clause spells it out for Normal mode and a back end that answers with no call
(log entry 11). A walk whose first header comes with the transaction is the model's reading of the
row `chain.node` (log entry 6). -/
def Obligations.ChainNodeDelivers : Prop :=
  ∀ (node next : Addr) (count : BitVec 8) (nodes : List Addr) (s : State), s.life ≠ .off →
    node ≠ 0xFFFFFF →
    let a := node &&& s.cfg.addrMask
    a.toNat / 4 + count.toNat < s.cfg.memWords → (a :: nodes).Nodup →
    nodes.length < s.cfg.chainIterCap → chainLaid s next nodes →
    let payload := nodePayload s a count ++ nodes.flatMap (payloadAt s)
    exec (.chainNode node count next) s = exec (.wdm payload) s
    ∧ (s.outMode = .normal → s.backend = [] →
        exec (.chainNode node count next) s
          = .next { s with events := s.events ++ handedOver payload })

/-- A chain of distinct nodes that ends in the sentinel delivers its payloads in list order
(42_dma_chain.md section with the derived behaviour (c); D27, D28, D29), as one chunk of the write
path: one image may be spread over several nodes (R196), and the back end may arm a transfer in
between. The last clause spells it out for Normal mode and a back end that answers with no call (log
entry 11). -/
def Obligations.ChainListDelivered : Prop :=
  ∀ (start : Word) (nodes : List Addr) (s : State), s.life ≠ .off →
    nodes.Nodup → nodes.length ≤ s.cfg.chainIterCap →
    chainLaid s (start.extractLsb' 0 24) nodes →
    exec (.chain start) s = exec (.wdm (nodes.flatMap (payloadAt s))) s
    ∧ (s.outMode = .normal → s.backend = [] →
        exec (.chain start) s = .next { s with
          events := s.events ++ handedOver (nodes.flatMap (payloadAt s)) })

/-- Self-loops and two-cycles stop after each node was processed once (derived behaviour (a) and (b);
D27), in every mode and whatever the back end does. The last clause spells it out for Normal mode and
a back end that answers with no call (log entry 11). -/
def Obligations.ChainCyclesStop : Prop :=
  ∀ (start : Word) (a b : Addr) (s : State), s.life ≠ .off → 2 ≤ s.cfg.chainIterCap →
    start.extractLsb' 0 24 ≠ (0xFFFFFF : Addr) → start.extractLsb' 0 24 &&& s.cfg.addrMask = a →
    nodeInside s a → nodeInside s b →
    headerNext (headerAt s a) ≠ 0xFFFFFF → headerNext (headerAt s a) &&& s.cfg.addrMask = b →
    headerNext (headerAt s b) ≠ 0xFFFFFF → headerNext (headerAt s b) &&& s.cfg.addrMask = a →
    let payload := if a = b then payloadAt s a else payloadAt s a ++ payloadAt s b
    exec (.chain start) s = exec (.wdm payload) s
    ∧ (s.outMode = .normal → s.backend = [] →
        exec (.chain start) s = .next { s with events := s.events ++ handedOver payload })

/-- Whatever memory holds, a walk enters at most `CHAIN_ITER_CAP` nodes, those without payload counted
too, and is one chunk of the write path made of their payloads; it completes only if all of them lie
inside memory (D28, D29). A cycle of three or more distinct nodes is not detected: it runs round until
`CHAIN_ITER_CAP` nodes were visited (derived behaviour (d)). -/
def Obligations.ChainAtMostCap : Prop :=
  ∀ (start : Word) (s : State), s.life ≠ .off →
    let cap := s.cfg.chainIterCap
    let nodes := nodesFrom s cap (start.extractLsb' 0 24) none none
    nodes.length ≤ cap
    ∧ ((∀ a ∈ nodes, nodeInside s a) →
        exec (.chain start) s = exec (.wdm (nodes.flatMap (payloadAt s))) s)
    ∧ (∀ t : State, exec (.chain start) s = .next t → ∀ a ∈ nodes, nodeInside s a)
    ∧ ∀ (ring : List Addr) (back : Addr), 3 ≤ ring.length → ring.Nodup →
        chainLeads s (start.extractLsb' 0 24) ring back → back ≠ 0xFFFFFF →
        ring.head? = some (back &&& s.cfg.addrMask) →
        nodes.length = cap
        ∧ exec (.chain start) s
            = exec (.wdm ((List.range cap).flatMap fun j =>
                payloadAt s (ring.getD (j % ring.length) 0))) s

/-- A node that runs past the end of memory has no meaning (D29): the first node of a walk, in either
of the node forms, or any later one, once the payloads of the nodes before it went through. Walks
whose first header comes with the transaction are the model's reading of the rows `chain.node` and
`chain.end` (log entry 6). -/
def Obligations.ChainOutOfMemory : Prop :=
  ∀ (start : Word) (node next : Addr) (count : BitVec 8) (s : State), s.life ≠ .off →
    0 < s.cfg.chainIterCap →
    let first := start.extractLsb' 0 24
    let a := node &&& s.cfg.addrMask
    (first ≠ 0xFFFFFF → ¬ nodeInside s (first &&& s.cfg.addrMask) →
      exec (.chain start) s = .refused .chainOutOfMemory)
    ∧ (∀ (before after : List Addr) (b : Addr) (t : State),
        nodesFrom s s.cfg.chainIterCap first none none = before ++ b :: after →
        (∀ c ∈ before, nodeInside s c) → ¬ nodeInside s b →
        exec (.wdm (before.flatMap (payloadAt s))) s = .next t →
        exec (.chain start) s = .refused .chainOutOfMemory)
    ∧ (node ≠ 0xFFFFFF → s.cfg.memWords ≤ a.toNat / 4 + count.toNat →
       exec (.chainNode node count next) s = .refused .chainOutOfMemory
       ∧ exec (.chainEnd node count) s = .refused .chainOutOfMemory)
    ∧ (node ≠ 0xFFFFFF → a.toNat / 4 + count.toNat < s.cfg.memWords →
       ∀ (before after : List Addr) (b : Addr) (t : State),
        nodesFrom s (s.cfg.chainIterCap - 1) next (some a) none = before ++ b :: after →
        (∀ c ∈ before, nodeInside s c) → ¬ nodeInside s b →
        exec (.wdm (nodePayload s a count ++ before.flatMap (payloadAt s))) s = .next t →
        exec (.chainNode node count next) s = .refused .chainOutOfMemory)

/-! ## Save state -/

/-- A version other than 1 makes GET and SET a no-op that returns failure (43_freeze_lifecycle.md
R214). -/
def Obligations.FreezeVersionMismatch : Prop :=
  ∀ s : State, s.life ≠ .off → 1032 + s.cfg.vramKb * 2048 ≤ s.img.size →
    readWord s.img.bytes 0 ≠ 1 →
    ∀ i ∈ [Instr.frzGet, .frzSet, .frz 1, .frz 0],
      exec i s = .next { s with answer := .code 0 }

/-- GET (D30): the image's `status`, `control` and `vram` fields hold the block's, every other byte of
the image is as it was, and the block itself does not change. -/
def Obligations.FreezeGetWritesImage : Prop :=
  ∀ s : State, s.life ≠ .off → 1032 + s.cfg.vramKb * 2048 ≤ s.img.size →
    readWord s.img.bytes 0 = 1 →
    ∃ t : State, exec .frzGet s = .next t ∧ exec (.frz 1) s = .next t
      ∧ t = { s with img := { s.img with bytes := t.img.bytes }, answer := .code 1 }
      ∧ ∀ a : Nat, readByte t.img.bytes a =
          if 4 ≤ a ∧ a < 8 then s.stat.extractLsb' (8 * (a - 4)) 8
          else if 8 ≤ a ∧ a < 1032 then
            (s.ctl.toList.getD ((a - 8) / 4) 0).extractLsb' (8 * ((a - 8) % 4)) 8
          else if 1032 ≤ a ∧ a < 1032 + s.cfg.vramKb * 2048 then readByte s.vram (a - 1032)
          else readByte s.img.bytes a

/-- SET (D31), for every image of version 1: it completes; VRAM reads as the image's field and no
field but these is written. When each of the nine replayed slots holds its own opcode or 0, Reset has
opcode 0 and GpuRequest none of 0 to 8 (their default numbers), the replay begins with a Reset:
cursors idle, raw-info table clear, the latch untouched, and of the restored status no bit of 15:0,
`OddLines` or `ReadyForVram` survives. There the parameters are ones `INIT` accepts, so that those
fields are apart from the ones the other commands write (log entry 23). -/
def Obligations.FreezeSetCompletes : Prop :=
  ∀ s : State, s.life ≠ .off → 1032 + s.cfg.vramKb * 2048 ≤ s.img.size →
    readWord s.img.bytes 0 = 1 →
    ∃ t : State, exec .frzSet s = .next t ∧ exec (.frz 0) s = .next t
      ∧ t = { s with
          stat := t.stat, ctl := t.ctl, gdata := t.gdata, info := t.info, inMode := t.inMode
          outMode := t.outMode, cin := t.cin, cout := t.cout, vram := t.vram
          vsyncReady := t.vsyncReady, geo := t.geo, ft := t.ft, events := t.events
          answer := .code 1 }
      ∧ (∀ a : Nat, readByte t.vram a =
          if a < s.cfg.vramKb * 2048 then readByte s.img.bytes (1032 + a) else 0)
      ∧ (paramsOk s.cfg = true → s.cfg.ops.reset = 0 → 8 < s.cfg.ops.gpuRequest.toNat →
          (∀ k < 9, readWord s.img.bytes (8 + 4 * k) = 0
            ∨ (readWord s.img.bytes (8 + 4 * k) >>> 24).toNat = k) →
          let l := s.cfg.statLayout
          let owned : Word := 0x0000FFFF ||| bitAt l.oddLines ||| bitAt l.readyForVram
          t.cin = ⟨0, 0, 0, 0, 0, 0, 0⟩ ∧ t.cout = ⟨0, 0, 0, 0, 0, 0, 0⟩
          ∧ t.info = ⟨0, 0, 0, 0⟩ ∧ t.gdata = s.gdata
          ∧ t.stat &&& owned = 0x00002000)

/-- SET (D31) is the restore followed by nine status-port writes in the order 0, 1, 2, 3, 8, 6, 7, 5,
4, each of the word its slot holds by then. For an image each of whose replayed slots holds 0 or a
word of its own opcode, those are the image's own words: a slot that was never written replays as the
word 0, with the default numbers a Reset, at its place. -/
def Obligations.FreezeSetReplays : Prop :=
  ∀ s : State, s.life ≠ .off → 1032 + s.cfg.vramKb * 2048 ≤ s.img.size →
    readWord s.img.bytes 0 = 1 →
    ∃ (v : Memory) (u : State),
      (∀ a : Nat, readByte v a =
        if a < s.cfg.vramKb * 2048 then readByte s.img.bytes (1032 + a) else 0)
      ∧ let restored : State := { s with
          stat := readWord s.img.bytes 4
          ctl := Vector.ofFn fun k => readWord s.img.bytes (8 + 4 * k.val)
          vram := v }
        runReplay [0, 1, 2, 3, 8, 6, 7, 5, 4] restored = .next u
        ∧ exec .frzSet s = .next { u with answer := .code 1 }
        ∧ exec (.frz 0) s = .next { u with answer := .code 1 }
        ∧ ((∀ k < 9, readWord s.img.bytes (8 + 4 * k) = 0
              ∨ (readWord s.img.bytes (8 + 4 * k) >>> 24).toNat = k) →
            runInstrs
              ([0, 1, 2, 3, 8, 6, 7, 5, 4].map fun k =>
                decodeStatus s.cfg (readWord s.img.bytes (8 + 4 * k)))
              restored = .next u)

/-- INFO stores a slot number from 0 to 8, any other mode fails, and neither touches anything else; an
image shorter than its mode needs has no meaning (D30). -/
def Obligations.FreezeInfoOtherShort : Prop :=
  ∀ s : State, s.life ≠ .off →
    (∀ i ∈ [Instr.frzInfo, .frz 2],
      exec i s =
        if s.img.size < 4 then .refused .freezeImageSize
        else if (readWord s.img.bytes 0).toNat ≤ 8 then
          .next { s with saveSlot := (readWord s.img.bytes 0).toNat, answer := .code 1 }
        else .next { s with answer := .code 0 })
    ∧ (∀ mode : Word, exec (.frzOther mode) s = .next { s with answer := .code 0 })
    ∧ (∀ mode : Word, mode ≠ 0 → mode ≠ 1 → mode ≠ 2 →
        exec (.frz mode) s = .next { s with answer := .code 0 })
    ∧ (s.img.size < 1032 + s.cfg.vramKb * 2048 →
        ∀ i ∈ [Instr.frzGet, .frzSet, .frz 1, .frz 0], exec i s = .refused .freezeImageSize)

/-- What a GET saves a later SET brings back (D30, D31), whatever the block did in between: every byte
of VRAM, and, when the nine replayed slots each held a word of their own opcode, the whole control
table. -/
def Obligations.SaveThenRestore : Prop :=
  ∀ s : State, s.life ≠ .off → 1032 + s.cfg.vramKb * 2048 ≤ s.img.size →
    readWord s.img.bytes 0 = 1 → memBelow (s.cfg.vramKb * 2048) s.vram →
    ∃ t : State, exec .frzGet s = .next t
      ∧ ∀ s' : State, s'.life ≠ .off → s'.cfg = s.cfg → s'.img = t.img →
          ∃ u : State, exec .frzSet s' = .next u
            ∧ (∀ a : Nat, readByte u.vram a = readByte s.vram a)
            ∧ ((∀ k : Fin 9, (s.ctl[k.val] >>> 24).toNat = k.val) → u.ctl = s.ctl)

/-! ## Lifecycle -/

/-- `INIT` (D33, D46): without its memory it fails and the block stays off; with it, every item takes
its reset value under the parameters the configuration source offers, and the six the spec leaves
open take values of which nothing is said. That parameters outside their constraints are refused is
the model's reading (93_implementation_defined.md U20). -/
def Obligations.InitResult : Prop :=
  ∀ s : State, s.life = .off →
    exec (.init false) s = .next { s with answer := .success false }
    ∧ (paramsOk s.cfgSource = false → exec (.init true) s = .refused .badParameters)
    ∧ (paramsOk s.cfgSource = true →
        let rate := rateOf s.cfgSource .ntsc false
        ∃ t : State, exec (.init true) s = .next t ∧ t = { s with
          life := .ready
          stat := 0x14802000
          ctl := Vector.replicate 256 0
          gdata := t.gdata
          info := ⟨0, 0, 0, 0⟩
          saveSlot := 0
          inMode := .normal
          outMode := .normal
          cin := ⟨0, 0, 0, 0, 0, 0, 0⟩
          cout := ⟨0, 0, 0, 0, 0, 0, 0⟩
          vram := []
          vsyncReady := false
          rdcnt := 0
          busy := 0
          geo :=
            { size := ⟨s.cfgSource.dispWidth[0], 0⟩, pos := ⟨0, 0⟩, dispEnd := ⟨0, 0⟩
              range := ⟨0, 0, 0, 0⟩, prev := ⟨⟨0, 0⟩, ⟨0, 0⟩, ⟨0, 0⟩, ⟨0, 0, 0, 0⟩⟩
              widthPreset := 0, multiplier := 1, depth := .bits15, localization := .ntsc
              interlacing := false }
          ft := { t.ft with
            targetFps := rate
            targetDuration := ((s.cfgSource.ticksPerSecond : Rat) / rate).floor.toNat
            framesToSkip := 0, skipLeft := 0, laceCount := 0 }
          cfg := s.cfgSource
          freeCount := t.freeCount
          answer := .success true })

/-- `OPEN`, `CLOSE` and `SHUTDOWN` (D33, D35): `OPEN` loads three timer registers from one clock
reading, which is the next one supplied. That `SHUTDOWN`, after which every item is meaningless,
leaves the other items as they are is the model's reading (log entry 15). -/
def Obligations.OpenCloseShutdown : Prop :=
  ∀ s : State,
    (s.life = .ready →
      exec .shutdown s = .next { s with life := .off }
      ∧ (∃ t : State, exec .openPort s = .next t
          ∧ s.clock.now ≤ t.clock.now
          ∧ t = { s with
              life := .opened
              events := s.events ++ [.apiSet]
              clock := t.clock
              freeCount := t.freeCount
              ft := { s.ft with
                nextUpdate := t.clock.now, lastMeasure := t.clock.now
                lastDisplay := t.clock.now, laceCount := 0 } }
          ∧ ∀ (d : Nat) (ds : List Nat), s.clock.ticks = d :: ds →
              t.clock = ⟨s.clock.now + d, ds⟩ ∧ t.freeCount = s.freeCount))
    ∧ (s.life = .opened →
      exec .closePort s = .next { s with life := .ready, events := s.events ++ [.apiUnset] })

/-- Where the table of the lifecycle lists no entry, a transaction has no meaning (D33). -/
def Obligations.LifecycleRefusals : Prop :=
  ∀ s : State,
    (s.life = .off → ∀ i : Instr, (∀ b : Bool, i ≠ .init b) → exec i s = .refused .lifecycle)
    ∧ (s.life = .ready → ∀ b : Bool,
        ∀ i ∈ [Instr.init b, .closePort, .vsync], exec i s = .refused .lifecycle)
    ∧ (s.life = .opened → ∀ b : Bool,
        ∀ i ∈ [Instr.init b, .openPort, .shutdown], exec i s = .refused .lifecycle)

/-! ## The frame timer -/

/-- `VSYNC` completes whenever the block is open, and touches nothing of the ports: `OddLines`, the
pending frame, the timer's registers but its rate, the clock and the events (44_frame_timer.md
section 5, derived there; D6). That it always completes rests on the model's reading that the clock
reaches the threshold of a hold (log entry 21). -/
def Obligations.VsyncFrame : Prop :=
  ∀ s : State, s.life = .opened →
    ∃ t : State, exec .vsync s = .next t
      ∧ s.clock.now ≤ t.clock.now
      ∧ t = { s with
          stat := if s.cfg.fixOddEvenBit then s.stat else s.stat ^^^ bitAt s.cfg.statLayout.oddLines
          vsyncReady := false
          ft := { t.ft with
            targetFps := s.ft.targetFps, targetDuration := s.ft.targetDuration }
          clock := t.clock
          events := t.events
          freeCount := t.freeCount }

/-- `VSYNC` with limiting, skipping and the display of the rate all off (D6, D39): the clock is not
read; a ready frame is presented. -/
def Obligations.VsyncAllOff : Prop :=
  ∀ s : State, s.life = .opened → s.cfg.frameLimitEnabled = false →
    s.cfg.frameSkipEnabled = false → s.cfg.fpsDisplayEnabled = false →
    exec .vsync s = .next { s with
      stat := if s.cfg.fixOddEvenBit then s.stat else s.stat ^^^ bitAt s.cfg.statLayout.oddLines
      vsyncReady := false
      events := s.events ++ if s.vsyncReady then [.render] else [] }

/-- `VSYNC` that only limits (D35, D36): behind or on time the threshold moves one frame on, clamped
up to the reading; ahead it may sleep, holds until the first reading at or past the threshold, and
the threshold moves one frame on. -/
def Obligations.VsyncLimits : Prop :=
  ∀ (d : Nat) (ds : List Nat) (s : State), s.life = .opened → s.cfg.frameLimitEnabled = true →
    s.cfg.frameSkipEnabled = false → s.cfg.fpsDisplayEnabled = false → s.clock.ticks = d :: ds →
    let now := s.clock.now + d
    let rem := s.ft.nextUpdate - now
    let ms (n : Nat) : Nat := n * s.cfg.ticksPerSecond / 1000
    let shown : State := { s with
      stat := if s.cfg.fixOddEvenBit then s.stat else s.stat ^^^ bitAt s.cfg.statLayout.oddLines
      vsyncReady := false }
    let render : List Event := if s.vsyncReady then [.render] else []
    (s.ft.nextUpdate ≤ now →
      exec .vsync s = .next { shown with
        clock := ⟨now, ds⟩
        ft := { s.ft with nextUpdate := max (s.ft.nextUpdate + s.ft.targetDuration) now }
        events := s.events ++ render })
    ∧ ∀ (es fs : List Nat) (e : Nat), ds = es ++ e :: fs → now + es.sum < s.ft.nextUpdate →
        s.ft.nextUpdate ≤ now + es.sum + e →
        exec .vsync s = .next { shown with
          clock := ⟨now + es.sum + e, fs⟩
          ft := { s.ft with nextUpdate := s.ft.nextUpdate + s.ft.targetDuration }
          events := s.events
            ++ (if s.cfg.ecoMode = true ∧ ms 4 < rem ∧ rem - ms 4 < ms 100
                then [.sleep (rem - ms 4)] else [])
            ++ render }

/-- `VSYNC` that measures (D36 to D39), whether it limits too or not, with time gone by since the last
measurement: what the limiting half leaves (in frame-skip mode it limits from the sixteenth vsync on),
the measured rate, the rate-limited copy, the frames to skip, and whether a ready frame is presented.
The rounding of the frames to skip is to the nearest integer, a half away from zero. -/
def Obligations.VsyncMeasuresAndSkips : Prop :=
  (∀ (q : Rat) (n : Int), roundsTo q n ↔ n = roundHalfAway q)
  ∧ ∀ (now1 d threshold : Nat) (ds : List Nat) (sleeps : List Event) (s : State),
    s.life = .opened → (s.cfg.frameSkipEnabled = true ∨ s.cfg.fpsDisplayEnabled = true) →
    limitTakes s now1 (d :: ds) threshold sleeps →
    s.ft.lastMeasure < now1 + d → s.ft.lastDisplay ≤ now1 + d →
    let now := now1 + d
    let dur := now - s.ft.lastMeasure
    let measured : Rat :=
      if 250 * s.cfg.ticksPerSecond / 1000 < dur then 2 else (s.cfg.ticksPerSecond : Rat) / dur
    let refresh : Prop := s.cfg.ticksPerSecond ≤ 5 * (now - s.ft.lastDisplay)
    let toSkip : Nat :=
      if s.cfg.frameSkipEnabled = true ∧ s.ft.targetDuration < dur then
        (min (max (roundHalfAway (4 / 5 + (s.ft.targetFps - measured) / s.ft.targetFps)) 0) 4).toNat
      else 0
    let dropped : Prop := s.cfg.frameSkipEnabled = true ∧ 0 < s.ft.skipLeft
    exec .vsync s = .next { s with
      stat := if s.cfg.fixOddEvenBit then s.stat else s.stat ^^^ bitAt s.cfg.statLayout.oddLines
      vsyncReady := false
      clock := ⟨now, ds⟩
      events := s.events ++ sleeps ++ if s.vsyncReady = true ∧ ¬ dropped then [.render] else []
      ft := { s.ft with
        nextUpdate := threshold
        lastMeasure := now
        measuredFps := measured
        displayedFps := if refresh then measured else s.ft.displayedFps
        lastDisplay := if refresh then now else s.ft.lastDisplay
        framesToSkip := toSkip
        skipLeft :=
          if s.vsyncReady = false ∨ s.cfg.frameSkipEnabled = false then s.ft.skipLeft
          else if 0 < s.ft.skipLeft then s.ft.skipLeft - 1
          else toSkip
        laceCount := if s.cfg.frameSkipEnabled then s.ft.laceCount + 1 else s.ft.laceCount } }

/-- A measurement never asks for more than two frames to be skipped, the unspecified rate of two
measurements in one tick included (44_frame_timer.md section 4, D37). That it completes whatever the
clock reads rests on the model's reading that the clock reaches the threshold of a hold (log entry
21). -/
def Obligations.FramesToSkipAtMostTwo : Prop :=
  ∀ s : State, Machine.Inv s → s.life = .opened →
    (s.cfg.frameSkipEnabled = true ∨ s.cfg.fpsDisplayEnabled = true) →
    ∃ t : State, exec .vsync s = .next t ∧ t.ft.framesToSkip ≤ 2

/-! ## The whole machine -/

/-- Which transactions can write what (10_state.md, 20_memory.md, 44_frame_timer.md, 60_exceptions.md
sections on the agents): system memory, the configuration source and the size of the image by none;
the parameters by `INIT` alone; the image by GET alone; the clock by `OPEN` and `VSYNC` alone; the
slot number by INFO and `INIT`; the odd/even counter by a status read and `INIT`; and the bits 31:16
of `STAT` that lie in no named field (25:24 in the default layout) by Reset, SET and `INIT` alone. -/
def Obligations.StateOwners : Prop :=
  ∀ (i : Instr) (s t : State), exec i s = .next t →
    t.sysMem = s.sysMem ∧ t.cfgSource = s.cfgSource ∧ t.requests = s.requests
    ∧ t.img.size = s.img.size
    ∧ ((∀ b, i ≠ .init b) → t.cfg = s.cfg)
    ∧ (i ≠ .frzGet → i ≠ .frz 1 → t.img = s.img)
    ∧ (i ≠ .openPort → i ≠ .vsync → t.clock = s.clock)
    ∧ ((∀ b, i ≠ .init b) → i ≠ .frzInfo → i ≠ .frz 2 → t.saveSlot = s.saveSlot)
    ∧ ((∀ b, i ≠ .init b) → i ≠ .rs → t.rdcnt = s.rdcnt)
    ∧ ((∀ b, i ≠ .init b) → (∀ p, i ≠ .wsReset p) → i ≠ .frzSet → i ≠ .frz 0 →
        ∀ k : Nat, 16 ≤ k →
          (∀ f : StatField, k < fieldLo s.cfg.statLayout f
            ∨ fieldLo s.cfg.statLayout f + fieldWidth f ≤ k) →
          t.stat.getLsbD k = s.stat.getLsbD k)

end Statements
end

