-- ==== Sys2Proof/Laws/Cursor.lean ====
section
/-! SUPPORT. Cursor arithmetic: the compare-and-subtract of `norm` is reduction modulo `VRAM_CELLS`,
and a step keeps a cursor inside its bounds or exhausts its window. -/

namespace Sys2Proof.Machine

theorem vramRows_pos (p : Params) : 512 ≤ p.vramRows := by
  unfold Params.vramRows Params.vramKb; split <;> omega

theorem vramCells_eq (p : Params) : p.vramCells = p.vramRows * 1024 := rfl

theorem vramBytes_eq (p : Params) : p.vramBytes = 2 * p.vramCells := by
  unfold Params.vramBytes Params.vramCells; omega

/-- On its domain at or above 0, `norm` is reduction modulo the number of cells. -/
theorem normIndex_eq_mod {cells n : Nat} (h : n < 2 * cells) :
    (normIndex cells (n : Int)).toNat = n % cells := by
  unfold normIndex
  split
  · rename_i hc
    have hle : cells ≤ n := by omega
    have e : ((n : Int) - cells).toNat = n - cells := by omega
    rw [e, Nat.mod_eq_sub_mod hle, Nat.mod_eq_of_lt (by omega)]
  · rename_i hc
    have hlt : n < cells := by omega
    have hn : ¬ ((n : Int) < 0) := by omega
    simp [hn, Nat.mod_eq_of_lt hlt]

/-- The bounds of a legal cursor, one by one. -/
theorem cursorLegal_iff (p : Params) (c : Cursor) :
    cursorLegal p c = true ↔
      c.x ≤ 1023 ∧ c.y < p.vramRows ∧ c.w ≤ 1024 ∧ c.h ≤ p.vramRows ∧ 1 ≤ c.rr ∧ c.rr ≤ c.w
        ∧ 1 ≤ c.rc ∧ c.rc ≤ c.h ∧ c.cur < p.vramCells := by
  simp only [cursorLegal, Bool.and_eq_true, decide_eq_true_eq]
  tauto

/-- A legal cursor is not idle. -/
theorem cursorLegal_not_idle {p : Params} {c : Cursor} (h : cursorLegal p c = true) :
    c ≠ Cursor.idle := by
  rintro rfl
  rw [cursorLegal_iff] at h
  simp [Cursor.idle] at h

/-- Arming within the ranges of `DEFINE_AREA` gives a legal cursor. -/
theorem armedCursor_legal {p : Params} {x y w h : Int} (hr : areaInRange p x y w h = true) :
    cursorLegal p (armedCursor x.toNat y.toNat w.toNat h.toNat) = true := by
  simp only [areaInRange, Bool.and_eq_true, decide_eq_true_eq] at hr
  have hc := vramCells_eq p
  rw [cursorLegal_iff]
  simp only [armedCursor]
  refine ⟨by omega, by omega, by omega, by omega, by omega, le_refl _, by omega, le_refl _, ?_⟩
  have : y.toNat * 1024 + 1024 ≤ p.vramRows * 1024 := by
    have : y.toNat + 1 ≤ p.vramRows := by omega
    omega
  omega

/-- The move past one cell, as reduction modulo the number of cells. -/
theorem advanceCell_eq {p : Params} {c : Cursor} (h : cursorLegal p c = true) :
    advanceCell p.vramCells c = { c with cur := (c.cur + 1) % p.vramCells, rr := c.rr - 1 } := by
  rw [cursorLegal_iff] at h
  have hr := vramRows_pos p
  have hc := vramCells_eq p
  have e : ((c.cur : Int) + 1) = ((c.cur + 1 : Nat) : Int) := by omega
  rw [advanceCell, e, normIndex_eq_mod (by omega)]

/-- The step to the next row, as reduction modulo the number of cells. -/
theorem nextRow_eq {p : Params} {c : Cursor} (hw : c.w ≤ 1024) (hc : c.cur < p.vramCells) :
    nextRow p.vramCells c
      = { c with rr := c.w, cur := (c.cur + (1024 - c.w)) % p.vramCells } := by
  have hr := vramRows_pos p
  have he := vramCells_eq p
  have e : ((c.cur : Int) + 1024 - c.w) = ((c.cur + (1024 - c.w) : Nat) : Int) := by omega
  rw [nextRow, e, normIndex_eq_mod (by omega)]

/-- A step inside a row. -/
theorem stepCursor_inside {p : Params} {c : Cursor} (h : cursorLegal p c = true)
    (hr : c.rr ≠ 1) :
    stepCursor p.vramCells c = { c with cur := (c.cur + 1) % p.vramCells, rr := c.rr - 1 } := by
  have hl := (cursorLegal_iff p c).1 h
  have : ¬ c.rr - 1 = 0 := by omega
  simp only [stepCursor, advanceCell_eq h, this, if_false]

/-- A step at the end of a row. -/
theorem stepCursor_rowEnd {p : Params} {c : Cursor} (h : cursorLegal p c = true)
    (hr : c.rr = 1) :
    stepCursor p.vramCells c
      = { c with
          cur := (c.cur + 1 + (1024 - c.w)) % p.vramCells
          rr := c.w
          rc := c.rc - 1 } := by
  have hl := (cursorLegal_iff p c).1 h
  have hrows := vramRows_pos p
  have hc := vramCells_eq p
  have h0 : 0 < p.vramCells := by omega
  simp only [stepCursor, advanceCell_eq h, hr, Nat.sub_self, if_true]
  rw [nextRow_eq (p := p) (by exact hl.2.2.1) (Nat.mod_lt _ h0)]
  simp only [Nat.mod_add_mod]

/-- After a step the window is exhausted or the cursor is legal; its index is inside VRAM. -/
theorem stepCursor_legal {p : Params} {c : Cursor} (h : cursorLegal p c = true) :
    (stepCursor p.vramCells c).cur < p.vramCells
      ∧ ((stepCursor p.vramCells c).rc = 0
        ∨ cursorLegal p (stepCursor p.vramCells c) = true) := by
  have hl := (cursorLegal_iff p c).1 h
  have hrows := vramRows_pos p
  have hc := vramCells_eq p
  have h0 : 0 < p.vramCells := by omega
  by_cases hr : c.rr = 1
  · rw [stepCursor_rowEnd h hr]
    refine ⟨Nat.mod_lt _ h0, ?_⟩
    by_cases h1 : c.rc = 1
    · left; simp [h1]
    · right
      rw [cursorLegal_iff]
      have := Nat.mod_lt (c.cur + 1 + (1024 - c.w)) h0
      refine ⟨?_, ?_, ?_, ?_, ?_, ?_, ?_, ?_, ?_⟩ <;> simp only <;> omega
  · rw [stepCursor_inside h hr]
    refine ⟨Nat.mod_lt _ h0, .inr ?_⟩
    rw [cursorLegal_iff]
    have := Nat.mod_lt (c.cur + 1) h0
    refine ⟨?_, ?_, ?_, ?_, ?_, ?_, ?_, ?_, ?_⟩ <;> simp only <;> omega

end Sys2Proof.Machine
end

