-- ==== Sys2Proof/Laws/State.lean ====
section
/-! SUPPORT. The named updates of the state, field by field: what each writes, and that it leaves every
other field as it was. -/

namespace Sys2Proof.Machine

@[simp] theorem emit_life (e : Event) (s : State) : (emit e s).life = s.life := rfl
@[simp] theorem emit_stat (e : Event) (s : State) : (emit e s).stat = s.stat := rfl
@[simp] theorem emit_ctl (e : Event) (s : State) : (emit e s).ctl = s.ctl := rfl
@[simp] theorem emit_gdata (e : Event) (s : State) : (emit e s).gdata = s.gdata := rfl
@[simp] theorem emit_info (e : Event) (s : State) : (emit e s).info = s.info := rfl
@[simp] theorem emit_saveSlot (e : Event) (s : State) : (emit e s).saveSlot = s.saveSlot := rfl
@[simp] theorem emit_inMode (e : Event) (s : State) : (emit e s).inMode = s.inMode := rfl
@[simp] theorem emit_outMode (e : Event) (s : State) : (emit e s).outMode = s.outMode := rfl
@[simp] theorem emit_cin (e : Event) (s : State) : (emit e s).cin = s.cin := rfl
@[simp] theorem emit_cout (e : Event) (s : State) : (emit e s).cout = s.cout := rfl
@[simp] theorem emit_vram (e : Event) (s : State) : (emit e s).vram = s.vram := rfl
@[simp] theorem emit_vsyncReady (e : Event) (s : State) : (emit e s).vsyncReady = s.vsyncReady := rfl
@[simp] theorem emit_rdcnt (e : Event) (s : State) : (emit e s).rdcnt = s.rdcnt := rfl
@[simp] theorem emit_busy (e : Event) (s : State) : (emit e s).busy = s.busy := rfl
@[simp] theorem emit_geo (e : Event) (s : State) : (emit e s).geo = s.geo := rfl
@[simp] theorem emit_ft (e : Event) (s : State) : (emit e s).ft = s.ft := rfl
@[simp] theorem emit_cfg (e : Event) (s : State) : (emit e s).cfg = s.cfg := rfl
@[simp] theorem emit_cfgSource (e : Event) (s : State) : (emit e s).cfgSource = s.cfgSource := rfl
@[simp] theorem emit_sysMem (e : Event) (s : State) : (emit e s).sysMem = s.sysMem := rfl
@[simp] theorem emit_img (e : Event) (s : State) : (emit e s).img = s.img := rfl
@[simp] theorem emit_clock (e : Event) (s : State) : (emit e s).clock = s.clock := rfl
@[simp] theorem emit_backend (e : Event) (s : State) : (emit e s).backend = s.backend := rfl
@[simp] theorem emit_requests (e : Event) (s : State) : (emit e s).requests = s.requests := rfl
@[simp] theorem emit_events (e : Event) (s : State) : (emit e s).events = s.events ++ [e] := rfl
@[simp] theorem emit_answer (e : Event) (s : State) : (emit e s).answer = s.answer := rfl
@[simp] theorem emit_freeCount (e : Event) (s : State) : (emit e s).freeCount = s.freeCount := rfl

@[simp] theorem reply_life (a : Answer) (s : State) : (reply a s).life = s.life := rfl
@[simp] theorem reply_stat (a : Answer) (s : State) : (reply a s).stat = s.stat := rfl
@[simp] theorem reply_ctl (a : Answer) (s : State) : (reply a s).ctl = s.ctl := rfl
@[simp] theorem reply_gdata (a : Answer) (s : State) : (reply a s).gdata = s.gdata := rfl
@[simp] theorem reply_info (a : Answer) (s : State) : (reply a s).info = s.info := rfl
@[simp] theorem reply_saveSlot (a : Answer) (s : State) : (reply a s).saveSlot = s.saveSlot := rfl
@[simp] theorem reply_inMode (a : Answer) (s : State) : (reply a s).inMode = s.inMode := rfl
@[simp] theorem reply_outMode (a : Answer) (s : State) : (reply a s).outMode = s.outMode := rfl
@[simp] theorem reply_cin (a : Answer) (s : State) : (reply a s).cin = s.cin := rfl
@[simp] theorem reply_cout (a : Answer) (s : State) : (reply a s).cout = s.cout := rfl
@[simp] theorem reply_vram (a : Answer) (s : State) : (reply a s).vram = s.vram := rfl
@[simp] theorem reply_vsyncReady (a : Answer) (s : State) : (reply a s).vsyncReady = s.vsyncReady := rfl
@[simp] theorem reply_rdcnt (a : Answer) (s : State) : (reply a s).rdcnt = s.rdcnt := rfl
@[simp] theorem reply_busy (a : Answer) (s : State) : (reply a s).busy = s.busy := rfl
@[simp] theorem reply_geo (a : Answer) (s : State) : (reply a s).geo = s.geo := rfl
@[simp] theorem reply_ft (a : Answer) (s : State) : (reply a s).ft = s.ft := rfl
@[simp] theorem reply_cfg (a : Answer) (s : State) : (reply a s).cfg = s.cfg := rfl
@[simp] theorem reply_cfgSource (a : Answer) (s : State) : (reply a s).cfgSource = s.cfgSource := rfl
@[simp] theorem reply_sysMem (a : Answer) (s : State) : (reply a s).sysMem = s.sysMem := rfl
@[simp] theorem reply_img (a : Answer) (s : State) : (reply a s).img = s.img := rfl
@[simp] theorem reply_clock (a : Answer) (s : State) : (reply a s).clock = s.clock := rfl
@[simp] theorem reply_backend (a : Answer) (s : State) : (reply a s).backend = s.backend := rfl
@[simp] theorem reply_requests (a : Answer) (s : State) : (reply a s).requests = s.requests := rfl
@[simp] theorem reply_events (a : Answer) (s : State) : (reply a s).events = s.events := rfl
@[simp] theorem reply_answer (a : Answer) (s : State) : (reply a s).answer = a := rfl
@[simp] theorem reply_freeCount (a : Answer) (s : State) : (reply a s).freeCount = s.freeCount := rfl

@[simp] theorem setStat_life (v : Word) (s : State) : (setStat v s).life = s.life := rfl
@[simp] theorem setStat_stat (v : Word) (s : State) : (setStat v s).stat = v := rfl
@[simp] theorem setStat_ctl (v : Word) (s : State) : (setStat v s).ctl = s.ctl := rfl
@[simp] theorem setStat_gdata (v : Word) (s : State) : (setStat v s).gdata = s.gdata := rfl
@[simp] theorem setStat_info (v : Word) (s : State) : (setStat v s).info = s.info := rfl
@[simp] theorem setStat_saveSlot (v : Word) (s : State) : (setStat v s).saveSlot = s.saveSlot := rfl
@[simp] theorem setStat_inMode (v : Word) (s : State) : (setStat v s).inMode = s.inMode := rfl
@[simp] theorem setStat_outMode (v : Word) (s : State) : (setStat v s).outMode = s.outMode := rfl
@[simp] theorem setStat_cin (v : Word) (s : State) : (setStat v s).cin = s.cin := rfl
@[simp] theorem setStat_cout (v : Word) (s : State) : (setStat v s).cout = s.cout := rfl
@[simp] theorem setStat_vram (v : Word) (s : State) : (setStat v s).vram = s.vram := rfl
@[simp] theorem setStat_vsyncReady (v : Word) (s : State) : (setStat v s).vsyncReady = s.vsyncReady := rfl
@[simp] theorem setStat_rdcnt (v : Word) (s : State) : (setStat v s).rdcnt = s.rdcnt := rfl
@[simp] theorem setStat_busy (v : Word) (s : State) : (setStat v s).busy = s.busy := rfl
@[simp] theorem setStat_geo (v : Word) (s : State) : (setStat v s).geo = s.geo := rfl
@[simp] theorem setStat_ft (v : Word) (s : State) : (setStat v s).ft = s.ft := rfl
@[simp] theorem setStat_cfg (v : Word) (s : State) : (setStat v s).cfg = s.cfg := rfl
@[simp] theorem setStat_cfgSource (v : Word) (s : State) : (setStat v s).cfgSource = s.cfgSource := rfl
@[simp] theorem setStat_sysMem (v : Word) (s : State) : (setStat v s).sysMem = s.sysMem := rfl
@[simp] theorem setStat_img (v : Word) (s : State) : (setStat v s).img = s.img := rfl
@[simp] theorem setStat_clock (v : Word) (s : State) : (setStat v s).clock = s.clock := rfl
@[simp] theorem setStat_backend (v : Word) (s : State) : (setStat v s).backend = s.backend := rfl
@[simp] theorem setStat_requests (v : Word) (s : State) : (setStat v s).requests = s.requests := rfl
@[simp] theorem setStat_events (v : Word) (s : State) : (setStat v s).events = s.events := rfl
@[simp] theorem setStat_answer (v : Word) (s : State) : (setStat v s).answer = s.answer := rfl
@[simp] theorem setStat_freeCount (v : Word) (s : State) : (setStat v s).freeCount = s.freeCount := rfl

@[simp] theorem setField_life (f : StatField) (v : Word) (s : State) : (setField f v s).life = s.life := rfl
@[simp] theorem setField_stat (f : StatField) (v : Word) (s : State) : (setField f v s).stat = putField s.cfg.statLayout f v s.stat := rfl
@[simp] theorem setField_ctl (f : StatField) (v : Word) (s : State) : (setField f v s).ctl = s.ctl := rfl
@[simp] theorem setField_gdata (f : StatField) (v : Word) (s : State) : (setField f v s).gdata = s.gdata := rfl
@[simp] theorem setField_info (f : StatField) (v : Word) (s : State) : (setField f v s).info = s.info := rfl
@[simp] theorem setField_saveSlot (f : StatField) (v : Word) (s : State) : (setField f v s).saveSlot = s.saveSlot := rfl
@[simp] theorem setField_inMode (f : StatField) (v : Word) (s : State) : (setField f v s).inMode = s.inMode := rfl
@[simp] theorem setField_outMode (f : StatField) (v : Word) (s : State) : (setField f v s).outMode = s.outMode := rfl
@[simp] theorem setField_cin (f : StatField) (v : Word) (s : State) : (setField f v s).cin = s.cin := rfl
@[simp] theorem setField_cout (f : StatField) (v : Word) (s : State) : (setField f v s).cout = s.cout := rfl
@[simp] theorem setField_vram (f : StatField) (v : Word) (s : State) : (setField f v s).vram = s.vram := rfl
@[simp] theorem setField_vsyncReady (f : StatField) (v : Word) (s : State) : (setField f v s).vsyncReady = s.vsyncReady := rfl
@[simp] theorem setField_rdcnt (f : StatField) (v : Word) (s : State) : (setField f v s).rdcnt = s.rdcnt := rfl
@[simp] theorem setField_busy (f : StatField) (v : Word) (s : State) : (setField f v s).busy = s.busy := rfl
@[simp] theorem setField_geo (f : StatField) (v : Word) (s : State) : (setField f v s).geo = s.geo := rfl
@[simp] theorem setField_ft (f : StatField) (v : Word) (s : State) : (setField f v s).ft = s.ft := rfl
@[simp] theorem setField_cfg (f : StatField) (v : Word) (s : State) : (setField f v s).cfg = s.cfg := rfl
@[simp] theorem setField_cfgSource (f : StatField) (v : Word) (s : State) : (setField f v s).cfgSource = s.cfgSource := rfl
@[simp] theorem setField_sysMem (f : StatField) (v : Word) (s : State) : (setField f v s).sysMem = s.sysMem := rfl
@[simp] theorem setField_img (f : StatField) (v : Word) (s : State) : (setField f v s).img = s.img := rfl
@[simp] theorem setField_clock (f : StatField) (v : Word) (s : State) : (setField f v s).clock = s.clock := rfl
@[simp] theorem setField_backend (f : StatField) (v : Word) (s : State) : (setField f v s).backend = s.backend := rfl
@[simp] theorem setField_requests (f : StatField) (v : Word) (s : State) : (setField f v s).requests = s.requests := rfl
@[simp] theorem setField_events (f : StatField) (v : Word) (s : State) : (setField f v s).events = s.events := rfl
@[simp] theorem setField_answer (f : StatField) (v : Word) (s : State) : (setField f v s).answer = s.answer := rfl
@[simp] theorem setField_freeCount (f : StatField) (v : Word) (s : State) : (setField f v s).freeCount = s.freeCount := rfl

@[simp] theorem setGdata_life (v : Word) (s : State) : (setGdata v s).life = s.life := rfl
@[simp] theorem setGdata_stat (v : Word) (s : State) : (setGdata v s).stat = s.stat := rfl
@[simp] theorem setGdata_ctl (v : Word) (s : State) : (setGdata v s).ctl = s.ctl := rfl
@[simp] theorem setGdata_gdata (v : Word) (s : State) : (setGdata v s).gdata = v := rfl
@[simp] theorem setGdata_info (v : Word) (s : State) : (setGdata v s).info = s.info := rfl
@[simp] theorem setGdata_saveSlot (v : Word) (s : State) : (setGdata v s).saveSlot = s.saveSlot := rfl
@[simp] theorem setGdata_inMode (v : Word) (s : State) : (setGdata v s).inMode = s.inMode := rfl
@[simp] theorem setGdata_outMode (v : Word) (s : State) : (setGdata v s).outMode = s.outMode := rfl
@[simp] theorem setGdata_cin (v : Word) (s : State) : (setGdata v s).cin = s.cin := rfl
@[simp] theorem setGdata_cout (v : Word) (s : State) : (setGdata v s).cout = s.cout := rfl
@[simp] theorem setGdata_vram (v : Word) (s : State) : (setGdata v s).vram = s.vram := rfl
@[simp] theorem setGdata_vsyncReady (v : Word) (s : State) : (setGdata v s).vsyncReady = s.vsyncReady := rfl
@[simp] theorem setGdata_rdcnt (v : Word) (s : State) : (setGdata v s).rdcnt = s.rdcnt := rfl
@[simp] theorem setGdata_busy (v : Word) (s : State) : (setGdata v s).busy = s.busy := rfl
@[simp] theorem setGdata_geo (v : Word) (s : State) : (setGdata v s).geo = s.geo := rfl
@[simp] theorem setGdata_ft (v : Word) (s : State) : (setGdata v s).ft = s.ft := rfl
@[simp] theorem setGdata_cfg (v : Word) (s : State) : (setGdata v s).cfg = s.cfg := rfl
@[simp] theorem setGdata_cfgSource (v : Word) (s : State) : (setGdata v s).cfgSource = s.cfgSource := rfl
@[simp] theorem setGdata_sysMem (v : Word) (s : State) : (setGdata v s).sysMem = s.sysMem := rfl
@[simp] theorem setGdata_img (v : Word) (s : State) : (setGdata v s).img = s.img := rfl
@[simp] theorem setGdata_clock (v : Word) (s : State) : (setGdata v s).clock = s.clock := rfl
@[simp] theorem setGdata_backend (v : Word) (s : State) : (setGdata v s).backend = s.backend := rfl
@[simp] theorem setGdata_requests (v : Word) (s : State) : (setGdata v s).requests = s.requests := rfl
@[simp] theorem setGdata_events (v : Word) (s : State) : (setGdata v s).events = s.events := rfl
@[simp] theorem setGdata_answer (v : Word) (s : State) : (setGdata v s).answer = s.answer := rfl
@[simp] theorem setGdata_freeCount (v : Word) (s : State) : (setGdata v s).freeCount = s.freeCount := rfl

@[simp] theorem storeCtl_life (w : Word) (s : State) : (storeCtl w s).life = s.life := rfl
@[simp] theorem storeCtl_stat (w : Word) (s : State) : (storeCtl w s).stat = s.stat := rfl
@[simp] theorem storeCtl_ctl (w : Word) (s : State) : (storeCtl w s).ctl = s.ctl.set (opcodeOf w).toNat w (opcodeOf w).isLt := rfl
@[simp] theorem storeCtl_gdata (w : Word) (s : State) : (storeCtl w s).gdata = s.gdata := rfl
@[simp] theorem storeCtl_info (w : Word) (s : State) : (storeCtl w s).info = s.info := rfl
@[simp] theorem storeCtl_saveSlot (w : Word) (s : State) : (storeCtl w s).saveSlot = s.saveSlot := rfl
@[simp] theorem storeCtl_inMode (w : Word) (s : State) : (storeCtl w s).inMode = s.inMode := rfl
@[simp] theorem storeCtl_outMode (w : Word) (s : State) : (storeCtl w s).outMode = s.outMode := rfl
@[simp] theorem storeCtl_cin (w : Word) (s : State) : (storeCtl w s).cin = s.cin := rfl
@[simp] theorem storeCtl_cout (w : Word) (s : State) : (storeCtl w s).cout = s.cout := rfl
@[simp] theorem storeCtl_vram (w : Word) (s : State) : (storeCtl w s).vram = s.vram := rfl
@[simp] theorem storeCtl_vsyncReady (w : Word) (s : State) : (storeCtl w s).vsyncReady = s.vsyncReady := rfl
@[simp] theorem storeCtl_rdcnt (w : Word) (s : State) : (storeCtl w s).rdcnt = s.rdcnt := rfl
@[simp] theorem storeCtl_busy (w : Word) (s : State) : (storeCtl w s).busy = s.busy := rfl
@[simp] theorem storeCtl_geo (w : Word) (s : State) : (storeCtl w s).geo = s.geo := rfl
@[simp] theorem storeCtl_ft (w : Word) (s : State) : (storeCtl w s).ft = s.ft := rfl
@[simp] theorem storeCtl_cfg (w : Word) (s : State) : (storeCtl w s).cfg = s.cfg := rfl
@[simp] theorem storeCtl_cfgSource (w : Word) (s : State) : (storeCtl w s).cfgSource = s.cfgSource := rfl
@[simp] theorem storeCtl_sysMem (w : Word) (s : State) : (storeCtl w s).sysMem = s.sysMem := rfl
@[simp] theorem storeCtl_img (w : Word) (s : State) : (storeCtl w s).img = s.img := rfl
@[simp] theorem storeCtl_clock (w : Word) (s : State) : (storeCtl w s).clock = s.clock := rfl
@[simp] theorem storeCtl_backend (w : Word) (s : State) : (storeCtl w s).backend = s.backend := rfl
@[simp] theorem storeCtl_requests (w : Word) (s : State) : (storeCtl w s).requests = s.requests := rfl
@[simp] theorem storeCtl_events (w : Word) (s : State) : (storeCtl w s).events = s.events := rfl
@[simp] theorem storeCtl_answer (w : Word) (s : State) : (storeCtl w s).answer = s.answer := rfl
@[simp] theorem storeCtl_freeCount (w : Word) (s : State) : (storeCtl w s).freeCount = s.freeCount := rfl

@[simp] theorem setVramCell_life (i : Nat) (v : Half) (s : State) : (setVramCell i v s).life = s.life := rfl
@[simp] theorem setVramCell_stat (i : Nat) (v : Half) (s : State) : (setVramCell i v s).stat = s.stat := rfl
@[simp] theorem setVramCell_ctl (i : Nat) (v : Half) (s : State) : (setVramCell i v s).ctl = s.ctl := rfl
@[simp] theorem setVramCell_gdata (i : Nat) (v : Half) (s : State) : (setVramCell i v s).gdata = s.gdata := rfl
@[simp] theorem setVramCell_info (i : Nat) (v : Half) (s : State) : (setVramCell i v s).info = s.info := rfl
@[simp] theorem setVramCell_saveSlot (i : Nat) (v : Half) (s : State) : (setVramCell i v s).saveSlot = s.saveSlot := rfl
@[simp] theorem setVramCell_inMode (i : Nat) (v : Half) (s : State) : (setVramCell i v s).inMode = s.inMode := rfl
@[simp] theorem setVramCell_outMode (i : Nat) (v : Half) (s : State) : (setVramCell i v s).outMode = s.outMode := rfl
@[simp] theorem setVramCell_cin (i : Nat) (v : Half) (s : State) : (setVramCell i v s).cin = s.cin := rfl
@[simp] theorem setVramCell_cout (i : Nat) (v : Half) (s : State) : (setVramCell i v s).cout = s.cout := rfl
@[simp] theorem setVramCell_vram (i : Nat) (v : Half) (s : State) : (setVramCell i v s).vram = writeHalf s.vram i v := rfl
@[simp] theorem setVramCell_vsyncReady (i : Nat) (v : Half) (s : State) : (setVramCell i v s).vsyncReady = s.vsyncReady := rfl
@[simp] theorem setVramCell_rdcnt (i : Nat) (v : Half) (s : State) : (setVramCell i v s).rdcnt = s.rdcnt := rfl
@[simp] theorem setVramCell_busy (i : Nat) (v : Half) (s : State) : (setVramCell i v s).busy = s.busy := rfl
@[simp] theorem setVramCell_geo (i : Nat) (v : Half) (s : State) : (setVramCell i v s).geo = s.geo := rfl
@[simp] theorem setVramCell_ft (i : Nat) (v : Half) (s : State) : (setVramCell i v s).ft = s.ft := rfl
@[simp] theorem setVramCell_cfg (i : Nat) (v : Half) (s : State) : (setVramCell i v s).cfg = s.cfg := rfl
@[simp] theorem setVramCell_cfgSource (i : Nat) (v : Half) (s : State) : (setVramCell i v s).cfgSource = s.cfgSource := rfl
@[simp] theorem setVramCell_sysMem (i : Nat) (v : Half) (s : State) : (setVramCell i v s).sysMem = s.sysMem := rfl
@[simp] theorem setVramCell_img (i : Nat) (v : Half) (s : State) : (setVramCell i v s).img = s.img := rfl
@[simp] theorem setVramCell_clock (i : Nat) (v : Half) (s : State) : (setVramCell i v s).clock = s.clock := rfl
@[simp] theorem setVramCell_backend (i : Nat) (v : Half) (s : State) : (setVramCell i v s).backend = s.backend := rfl
@[simp] theorem setVramCell_requests (i : Nat) (v : Half) (s : State) : (setVramCell i v s).requests = s.requests := rfl
@[simp] theorem setVramCell_events (i : Nat) (v : Half) (s : State) : (setVramCell i v s).events = s.events := rfl
@[simp] theorem setVramCell_answer (i : Nat) (v : Half) (s : State) : (setVramCell i v s).answer = s.answer := rfl
@[simp] theorem setVramCell_freeCount (i : Nat) (v : Half) (s : State) : (setVramCell i v s).freeCount = s.freeCount := rfl

@[simp] theorem finishRead_life (s : State) : (finishRead s).life = s.life := rfl
@[simp] theorem finishRead_stat (s : State) : (finishRead s).stat = putField s.cfg.statLayout .readyForVram 0 s.stat := rfl
@[simp] theorem finishRead_ctl (s : State) : (finishRead s).ctl = s.ctl := rfl
@[simp] theorem finishRead_gdata (s : State) : (finishRead s).gdata = s.gdata := rfl
@[simp] theorem finishRead_info (s : State) : (finishRead s).info = s.info := rfl
@[simp] theorem finishRead_saveSlot (s : State) : (finishRead s).saveSlot = s.saveSlot := rfl
@[simp] theorem finishRead_inMode (s : State) : (finishRead s).inMode = .normal := rfl
@[simp] theorem finishRead_outMode (s : State) : (finishRead s).outMode = s.outMode := rfl
@[simp] theorem finishRead_cin (s : State) : (finishRead s).cin = Cursor.idle := rfl
@[simp] theorem finishRead_cout (s : State) : (finishRead s).cout = s.cout := rfl
@[simp] theorem finishRead_vram (s : State) : (finishRead s).vram = s.vram := rfl
@[simp] theorem finishRead_vsyncReady (s : State) : (finishRead s).vsyncReady = s.vsyncReady := rfl
@[simp] theorem finishRead_rdcnt (s : State) : (finishRead s).rdcnt = s.rdcnt := rfl
@[simp] theorem finishRead_busy (s : State) : (finishRead s).busy = s.busy := rfl
@[simp] theorem finishRead_geo (s : State) : (finishRead s).geo = s.geo := rfl
@[simp] theorem finishRead_ft (s : State) : (finishRead s).ft = s.ft := rfl
@[simp] theorem finishRead_cfg (s : State) : (finishRead s).cfg = s.cfg := rfl
@[simp] theorem finishRead_cfgSource (s : State) : (finishRead s).cfgSource = s.cfgSource := rfl
@[simp] theorem finishRead_sysMem (s : State) : (finishRead s).sysMem = s.sysMem := rfl
@[simp] theorem finishRead_img (s : State) : (finishRead s).img = s.img := rfl
@[simp] theorem finishRead_clock (s : State) : (finishRead s).clock = s.clock := rfl
@[simp] theorem finishRead_backend (s : State) : (finishRead s).backend = s.backend := rfl
@[simp] theorem finishRead_requests (s : State) : (finishRead s).requests = s.requests := rfl
@[simp] theorem finishRead_events (s : State) : (finishRead s).events = s.events := rfl
@[simp] theorem finishRead_answer (s : State) : (finishRead s).answer = s.answer := rfl
@[simp] theorem finishRead_freeCount (s : State) : (finishRead s).freeCount = s.freeCount := rfl

@[simp] theorem finishWrite_life (drawn : Bool) (s : State) : (finishWrite drawn s).life = s.life := rfl
@[simp] theorem finishWrite_stat (drawn : Bool) (s : State) : (finishWrite drawn s).stat = s.stat := rfl
@[simp] theorem finishWrite_ctl (drawn : Bool) (s : State) : (finishWrite drawn s).ctl = s.ctl := rfl
@[simp] theorem finishWrite_gdata (drawn : Bool) (s : State) : (finishWrite drawn s).gdata = s.gdata := rfl
@[simp] theorem finishWrite_info (drawn : Bool) (s : State) : (finishWrite drawn s).info = s.info := rfl
@[simp] theorem finishWrite_saveSlot (drawn : Bool) (s : State) : (finishWrite drawn s).saveSlot = s.saveSlot := rfl
@[simp] theorem finishWrite_inMode (drawn : Bool) (s : State) : (finishWrite drawn s).inMode = s.inMode := rfl
@[simp] theorem finishWrite_outMode (drawn : Bool) (s : State) : (finishWrite drawn s).outMode = .normal := rfl
@[simp] theorem finishWrite_cin (drawn : Bool) (s : State) : (finishWrite drawn s).cin = s.cin := rfl
@[simp] theorem finishWrite_cout (drawn : Bool) (s : State) : (finishWrite drawn s).cout = Cursor.idle := rfl
@[simp] theorem finishWrite_vram (drawn : Bool) (s : State) : (finishWrite drawn s).vram = s.vram := rfl
@[simp] theorem finishWrite_vsyncReady (drawn : Bool) (s : State) : (finishWrite drawn s).vsyncReady = (s.vsyncReady || drawn) := rfl
@[simp] theorem finishWrite_rdcnt (drawn : Bool) (s : State) : (finishWrite drawn s).rdcnt = s.rdcnt := rfl
@[simp] theorem finishWrite_busy (drawn : Bool) (s : State) : (finishWrite drawn s).busy = s.busy := rfl
@[simp] theorem finishWrite_geo (drawn : Bool) (s : State) : (finishWrite drawn s).geo = s.geo := rfl
@[simp] theorem finishWrite_ft (drawn : Bool) (s : State) : (finishWrite drawn s).ft = s.ft := rfl
@[simp] theorem finishWrite_cfg (drawn : Bool) (s : State) : (finishWrite drawn s).cfg = s.cfg := rfl
@[simp] theorem finishWrite_cfgSource (drawn : Bool) (s : State) : (finishWrite drawn s).cfgSource = s.cfgSource := rfl
@[simp] theorem finishWrite_sysMem (drawn : Bool) (s : State) : (finishWrite drawn s).sysMem = s.sysMem := rfl
@[simp] theorem finishWrite_img (drawn : Bool) (s : State) : (finishWrite drawn s).img = s.img := rfl
@[simp] theorem finishWrite_clock (drawn : Bool) (s : State) : (finishWrite drawn s).clock = s.clock := rfl
@[simp] theorem finishWrite_backend (drawn : Bool) (s : State) : (finishWrite drawn s).backend = s.backend := rfl
@[simp] theorem finishWrite_requests (drawn : Bool) (s : State) : (finishWrite drawn s).requests = s.requests := rfl
@[simp] theorem finishWrite_events (drawn : Bool) (s : State) : (finishWrite drawn s).events = s.events := rfl
@[simp] theorem finishWrite_answer (drawn : Bool) (s : State) : (finishWrite drawn s).answer = s.answer := rfl
@[simp] theorem finishWrite_freeCount (drawn : Bool) (s : State) : (finishWrite drawn s).freeCount = s.freeCount := rfl

@[simp] theorem busyKick_life (s : State) : (busyKick s).life = s.life := rfl
@[simp] theorem busyKick_stat (s : State) : (busyKick s).stat = s.stat := rfl
@[simp] theorem busyKick_ctl (s : State) : (busyKick s).ctl = s.ctl := rfl
@[simp] theorem busyKick_gdata (s : State) : (busyKick s).gdata = s.gdata := rfl
@[simp] theorem busyKick_info (s : State) : (busyKick s).info = s.info := rfl
@[simp] theorem busyKick_saveSlot (s : State) : (busyKick s).saveSlot = s.saveSlot := rfl
@[simp] theorem busyKick_inMode (s : State) : (busyKick s).inMode = s.inMode := rfl
@[simp] theorem busyKick_outMode (s : State) : (busyKick s).outMode = s.outMode := rfl
@[simp] theorem busyKick_cin (s : State) : (busyKick s).cin = s.cin := rfl
@[simp] theorem busyKick_cout (s : State) : (busyKick s).cout = s.cout := rfl
@[simp] theorem busyKick_vram (s : State) : (busyKick s).vram = s.vram := rfl
@[simp] theorem busyKick_vsyncReady (s : State) : (busyKick s).vsyncReady = s.vsyncReady := rfl
@[simp] theorem busyKick_rdcnt (s : State) : (busyKick s).rdcnt = s.rdcnt := rfl
@[simp] theorem busyKick_busy (s : State) : (busyKick s).busy = s.cfg.busySeqInit := rfl
@[simp] theorem busyKick_geo (s : State) : (busyKick s).geo = s.geo := rfl
@[simp] theorem busyKick_ft (s : State) : (busyKick s).ft = s.ft := rfl
@[simp] theorem busyKick_cfg (s : State) : (busyKick s).cfg = s.cfg := rfl
@[simp] theorem busyKick_cfgSource (s : State) : (busyKick s).cfgSource = s.cfgSource := rfl
@[simp] theorem busyKick_sysMem (s : State) : (busyKick s).sysMem = s.sysMem := rfl
@[simp] theorem busyKick_img (s : State) : (busyKick s).img = s.img := rfl
@[simp] theorem busyKick_clock (s : State) : (busyKick s).clock = s.clock := rfl
@[simp] theorem busyKick_backend (s : State) : (busyKick s).backend = s.backend := rfl
@[simp] theorem busyKick_requests (s : State) : (busyKick s).requests = s.requests := rfl
@[simp] theorem busyKick_events (s : State) : (busyKick s).events = s.events := rfl
@[simp] theorem busyKick_answer (s : State) : (busyKick s).answer = s.answer := rfl
@[simp] theorem busyKick_freeCount (s : State) : (busyKick s).freeCount = s.freeCount := rfl

@[simp] theorem infoStoreCall_life (e : RawEntry) (v : Word) (s : State) : (infoStoreCall e v s).life = s.life := rfl
@[simp] theorem infoStoreCall_stat (e : RawEntry) (v : Word) (s : State) : (infoStoreCall e v s).stat = s.stat := rfl
@[simp] theorem infoStoreCall_ctl (e : RawEntry) (v : Word) (s : State) : (infoStoreCall e v s).ctl = s.ctl := rfl
@[simp] theorem infoStoreCall_gdata (e : RawEntry) (v : Word) (s : State) : (infoStoreCall e v s).gdata = s.gdata := rfl
@[simp] theorem infoStoreCall_info (e : RawEntry) (v : Word) (s : State) : (infoStoreCall e v s).info = setRawEntry s.info e v := rfl
@[simp] theorem infoStoreCall_saveSlot (e : RawEntry) (v : Word) (s : State) : (infoStoreCall e v s).saveSlot = s.saveSlot := rfl
@[simp] theorem infoStoreCall_inMode (e : RawEntry) (v : Word) (s : State) : (infoStoreCall e v s).inMode = s.inMode := rfl
@[simp] theorem infoStoreCall_outMode (e : RawEntry) (v : Word) (s : State) : (infoStoreCall e v s).outMode = s.outMode := rfl
@[simp] theorem infoStoreCall_cin (e : RawEntry) (v : Word) (s : State) : (infoStoreCall e v s).cin = s.cin := rfl
@[simp] theorem infoStoreCall_cout (e : RawEntry) (v : Word) (s : State) : (infoStoreCall e v s).cout = s.cout := rfl
@[simp] theorem infoStoreCall_vram (e : RawEntry) (v : Word) (s : State) : (infoStoreCall e v s).vram = s.vram := rfl
@[simp] theorem infoStoreCall_vsyncReady (e : RawEntry) (v : Word) (s : State) : (infoStoreCall e v s).vsyncReady = s.vsyncReady := rfl
@[simp] theorem infoStoreCall_rdcnt (e : RawEntry) (v : Word) (s : State) : (infoStoreCall e v s).rdcnt = s.rdcnt := rfl
@[simp] theorem infoStoreCall_busy (e : RawEntry) (v : Word) (s : State) : (infoStoreCall e v s).busy = s.busy := rfl
@[simp] theorem infoStoreCall_geo (e : RawEntry) (v : Word) (s : State) : (infoStoreCall e v s).geo = s.geo := rfl
@[simp] theorem infoStoreCall_ft (e : RawEntry) (v : Word) (s : State) : (infoStoreCall e v s).ft = s.ft := rfl
@[simp] theorem infoStoreCall_cfg (e : RawEntry) (v : Word) (s : State) : (infoStoreCall e v s).cfg = s.cfg := rfl
@[simp] theorem infoStoreCall_cfgSource (e : RawEntry) (v : Word) (s : State) : (infoStoreCall e v s).cfgSource = s.cfgSource := rfl
@[simp] theorem infoStoreCall_sysMem (e : RawEntry) (v : Word) (s : State) : (infoStoreCall e v s).sysMem = s.sysMem := rfl
@[simp] theorem infoStoreCall_img (e : RawEntry) (v : Word) (s : State) : (infoStoreCall e v s).img = s.img := rfl
@[simp] theorem infoStoreCall_clock (e : RawEntry) (v : Word) (s : State) : (infoStoreCall e v s).clock = s.clock := rfl
@[simp] theorem infoStoreCall_backend (e : RawEntry) (v : Word) (s : State) : (infoStoreCall e v s).backend = s.backend := rfl
@[simp] theorem infoStoreCall_requests (e : RawEntry) (v : Word) (s : State) : (infoStoreCall e v s).requests = s.requests := rfl
@[simp] theorem infoStoreCall_events (e : RawEntry) (v : Word) (s : State) : (infoStoreCall e v s).events = s.events := rfl
@[simp] theorem infoStoreCall_answer (e : RawEntry) (v : Word) (s : State) : (infoStoreCall e v s).answer = s.answer := rfl
@[simp] theorem infoStoreCall_freeCount (e : RawEntry) (v : Word) (s : State) : (infoStoreCall e v s).freeCount = s.freeCount := rfl

end Sys2Proof.Machine
end

