-- ==== Sys2Proof/Laws/Ops.lean ====
section
/-! SUPPORT. What each shared operation can do, said once: sequencing, the guards, the clock, and the
calls of the back end. -/

namespace Sys2Proof.Machine

@[simp] theorem andThen_next {α β : Type} (a : α) (f : α → Res β) : andThen (.next a) f = f a := rfl
@[simp] theorem andThen_fault {α β : Type} (e : Fault) (f : α → Res β) :
    andThen (.fault e) f = .fault e := rfl
@[simp] theorem andThen_refused {α β : Type} (r : Refusal) (f : α → Res β) :
    andThen (.refused r) f = .refused r := rfl

/-- A sequence completes exactly when both parts do. -/
theorem andThen_eq_next {α β : Type} {o : Res α} {f : α → Res β} {b : β} :
    andThen o f = .next b ↔ ∃ a, o = .next a ∧ f a = .next b := by
  cases o <;> simp [andThen]

/-- A sequence faults where its first part does, or its second part after it. -/
theorem andThen_eq_fault {α β : Type} {o : Res α} {f : α → Res β} {e : Fault} :
    andThen o f = .fault e ↔ o = .fault e ∨ ∃ a, o = .next a ∧ f a = .fault e := by
  cases o <;> simp [andThen]

theorem andThen_assoc {α β γ : Type} (o : Res α) (f : α → Res β) (g : β → Res γ) :
    andThen (andThen o f) g = andThen o fun a => andThen (f a) g := by
  cases o <;> rfl

theorem andThen_pure {α : Type} (o : Res α) : andThen o (fun a => .next a) = o := by
  cases o <;> rfl

/-- A transaction that needs a live block, in one. -/
theorem whenAlive_of_alive {s : State} (h : s.life ≠ .off) (k : State → Res State) :
    whenAlive s k = k s := by simp [whenAlive, h]

/-- A transaction that needs a live block, in one that is off. -/
theorem whenAlive_of_off {s : State} (h : s.life = .off) (k : State → Res State) :
    whenAlive s k = .refused .lifecycle := by simp [whenAlive, h]

theorem whenAlive_eq_next {s t : State} {k : State → Res State} :
    whenAlive s k = .next t ↔ s.life ≠ .off ∧ k s = .next t := by
  unfold whenAlive; split <;> simp_all

theorem whenAlive_eq_fault {s : State} {k : State → Res State} {e : Fault} :
    whenAlive s k = .fault e ↔ s.life ≠ .off ∧ k s = .fault e := by
  unfold whenAlive; split <;> simp_all

theorem whenLife_eq_next {life : Life} {s t : State} {k : State → Res State} :
    whenLife life s k = .next t ↔ s.life = life ∧ k s = .next t := by
  unfold whenLife; split <;> simp_all

theorem whenLife_eq_fault {life : Life} {s : State} {k : State → Res State} {e : Fault} :
    whenLife life s k = .fault e ↔ s.life = life ∧ k s = .fault e := by
  unfold whenLife; split <;> simp_all

/-- A clock reading: never below the last one, now the last one; nothing but the clock input and the
count of free values changes. -/
theorem readClock_spec (s : State) :
    s.clock.now ≤ (readClock s).1 ∧ (readClock s).2.clock.now = (readClock s).1
      ∧ (readClock s).2
        = { s with clock := (readClock s).2.clock, freeCount := (readClock s).2.freeCount } := by
  unfold readClock
  split
  · simp
  · simp

/-- A reading found is at or past the threshold and not below the last one taken. -/
theorem readingsUntil_spec {threshold now t : Nat} {ds rest : List Nat}
    (h : readingsUntil threshold now ds = some (t, rest)) : threshold ≤ t ∧ now ≤ t := by
  induction ds generalizing now with
  | nil => simp [readingsUntil] at h
  | cons d ds ih =>
    simp only [readingsUntil] at h
    split at h
    · rename_i hle
      simp only [Option.some.injEq, Prod.mk.injEq] at h
      omega
    · have := ih h; omega

/-- The hold ends at or past its threshold; nothing but the clock input and the count of free values
changes. -/
theorem holdClock_spec (threshold : Nat) (s : State) :
    threshold ≤ (holdClock threshold s).clock.now
      ∧ s.clock.now ≤ (holdClock threshold s).clock.now
      ∧ holdClock threshold s
        = { s with
            clock := (holdClock threshold s).clock
            freeCount := (holdClock threshold s).freeCount } := by
  unfold holdClock
  split
  · rename_i h
    have := readingsUntil_spec h
    exact ⟨this.1, this.2, rfl⟩
  · refine ⟨?_, ?_, rfl⟩ <;> simp only <;> omega

/-- `DEFINE_AREA` completes only within its ranges, and then arms its own direction (R161). -/
theorem defineArea_eq_next {dir : Direction} {x y w h : Int} {s t : State}
    (ht : defineArea dir x y w h s = .next t) :
    areaInRange s.cfg x y w h = true ∧
      ((dir = .input ∧ t =
          { s with
            cin := armedCursor x.toNat y.toNat w.toNat h.toNat
            inMode := .vramTransfer
            stat := putField s.cfg.statLayout .readyForVram 1 s.stat })
        ∨ (dir = .output ∧ t =
          { s with
            cout := armedCursor x.toNat y.toNat w.toNat h.toNat
            outMode := .vramTransfer })) := by
  unfold defineArea at ht
  split at ht
  · rename_i hr
    refine ⟨hr, ?_⟩
    cases dir
    · left; simp only [Host.Outcome.next.injEq] at ht; exact ⟨rfl, ht.symm⟩
    · right; simp only [Host.Outcome.next.injEq] at ht; exact ⟨rfl, ht.symm⟩
  · cases ht

/-- What a call of the back end can write: `STAT`, `BUSY`, `INFO`, the cursors and the modes
(60_exceptions.md R283). -/
theorem runCall_frame {c : BackendCall} {s t : State} (ht : runCall c s = .next t) :
    t = { s with
      stat := t.stat, busy := t.busy, info := t.info, cin := t.cin, cout := t.cout,
      inMode := t.inMode, outMode := t.outMode } := by
  cases c with
  | defineArea dir x y w h =>
    obtain ⟨-, ⟨-, rfl⟩ | ⟨-, rfl⟩⟩ := defineArea_eq_next ht <;> rfl
  | busyKick => simp only [runCall, Host.Outcome.next.injEq] at ht; subst ht; rfl
  | statSet m =>
    simp only [runCall, statSetCall] at ht
    split at ht
    · simp only [Host.Outcome.next.injEq] at ht; subst ht; rfl
    · cases ht
  | statClr m =>
    simp only [runCall, statClrCall] at ht
    split at ht
    · simp only [Host.Outcome.next.injEq] at ht; subst ht; rfl
    · cases ht
  | infoStore e v => simp only [runCall, Host.Outcome.next.injEq] at ht; subst ht; rfl

/-- No call of the back end faults. -/
theorem runCall_not_fault (c : BackendCall) (s : State) (e : Fault) : runCall c s ≠ .fault e := by
  cases c <;> simp only [runCall, defineArea, statSetCall, statClrCall] <;>
    repeat' split
  all_goals simp

/-- A property that every single call keeps, a whole answer keeps. -/
theorem runCalls_keeps {P : State → Prop}
    (hP : ∀ c s t, P s → runCall c s = .next t → P t) :
    ∀ (cs : List BackendCall) {s t : State}, P s → runCalls cs s = .next t → P t
  | [], s, t, hs, ht => by
    simp only [runCalls, Host.Outcome.next.injEq] at ht; exact ht ▸ hs
  | c :: cs, s, t, hs, ht => by
    simp only [runCalls, andThen_eq_next] at ht
    obtain ⟨u, hu, ht⟩ := ht
    exact runCalls_keeps hP cs (hP c s u hs hu) ht

theorem runCalls_frame {cs : List BackendCall} {s t : State} (ht : runCalls cs s = .next t) :
    t = { s with
      stat := t.stat, busy := t.busy, info := t.info, cin := t.cin, cout := t.cout,
      inMode := t.inMode, outMode := t.outMode } := by
  refine runCalls_keeps (P := fun u => u = { s with
      stat := u.stat, busy := u.busy, info := u.info, cin := u.cin, cout := u.cout,
      inMode := u.inMode, outMode := u.outMode }) (fun c u v hu hv => ?_) cs rfl ht
  have h := runCall_frame hv
  rw [hu] at h
  exact h

theorem runCalls_not_fault (cs : List BackendCall) (s : State) (e : Fault) :
    runCalls cs s ≠ .fault e := by
  induction cs generalizing s with
  | nil => simp [runCalls]
  | cons c cs ih =>
    intro h
    rcases andThen_eq_fault.1 h with h | ⟨u, -, h⟩
    · exact runCall_not_fault c s e h
    · exact ih u h

/-- What the delivery of a Normal word can write: the back end's fields, its script, and the event
that announces the word. -/
theorem normalWord_frame {w : Word} {s t : State} (ht : normalWord w s = .next t) :
    t = { s with
      stat := t.stat, busy := t.busy, info := t.info, cin := t.cin, cout := t.cout,
      inMode := t.inMode, outMode := t.outMode, backend := s.backend.tail,
      events := s.events ++ [.normalWord w] } := by
  unfold normalWord at ht
  split at ht
  · rename_i hb
    simp only [Host.Outcome.next.injEq] at ht; subst ht; simp [emit, hb]
  · rename_i calls rest hb
    have := runCalls_frame ht
    rw [this]; simp [emit, hb]

theorem normalWord_not_fault (w : Word) (s : State) (e : Fault) : normalWord w s ≠ .fault e := by
  unfold normalWord; split
  · simp
  · exact runCalls_not_fault _ _ _

end Sys2Proof.Machine
end

