-- ==== Sys2Proof/Laws/DataPort.lean ====
section
/-! SUPPORT. What the data port's operations can do, said once. -/

namespace Sys2Proof.Machine

/-! ## The read path -/

theorem retireRead_of_not_idle {s : State} (h : s.cin ≠ Cursor.idle) : retireRead s = s := by
  simp [retireRead, h]

theorem retireRead_of_normal {s : State} (h : s.inMode = .normal) : retireRead s = s := by
  simp [retireRead, h]

/-- A word produced: two cells from the cursor on, latched; the cursor past them, or the transfer
ended (R167 to R170). -/
theorem produceWord_eq_next {s t : State} {w : Word} (h : produceWord s = .next (w, t)) :
    cursorLegal s.cfg s.cin = true
      ∧ w = vramCell s (stepCursor s.cfg.vramCells s.cin).cur ++ vramCell s s.cin.cur
      ∧ t =
        (let d := afterHighRead s.cfg.vramCells (stepCursor s.cfg.vramCells s.cin)
         if d.rc = 0 then finishRead { setGdata w s with cin := d }
         else { setGdata w s with cin := d }) := by
  unfold produceWord at h
  split at h
  · rename_i hl
    simp only [Host.Outcome.next.injEq, Prod.mk.injEq] at h
    obtain ⟨rfl, rfl⟩ := h
    exact ⟨hl, rfl, rfl⟩
  · cases h

/-- The cursor after a word is exhausted or legal. -/
theorem afterHighRead_legal {p : Params} {c : Cursor} (h : cursorLegal p c = true) :
    (afterHighRead p.vramCells (stepCursor p.vramCells c)).rc = 0
      ∨ cursorLegal p (afterHighRead p.vramCells (stepCursor p.vramCells c)) = true := by
  unfold afterHighRead
  split
  · rename_i h0; exact .inl h0
  · rename_i h0
    rcases (stepCursor_legal h).2 with h1 | h1
    · exact absurd h1 h0
    · exact (stepCursor_legal h1).2

/-- What a word produced can write. -/
theorem produceWord_frame {s t : State} {w : Word} (h : produceWord s = .next (w, t)) :
    t = { s with gdata := w, cin := t.cin, inMode := t.inMode, stat := t.stat } := by
  obtain ⟨-, -, rfl⟩ := produceWord_eq_next h
  simp only
  split <;> rfl

/-- After a word the transfer is over, both fields reset, or still armed as it was. -/
theorem produceWord_mode {s t : State} {w : Word} (h : produceWord s = .next (w, t)) :
    (t.inMode = .normal ∧ t.cin = Cursor.idle)
      ∨ (t.inMode = s.inMode ∧ cursorLegal s.cfg t.cin = true) := by
  obtain ⟨hl, -, rfl⟩ := produceWord_eq_next h
  simp only
  split
  · exact .inl ⟨rfl, rfl⟩
  · rename_i h0
    rcases afterHighRead_legal hl with h1 | h1
    · exact absurd h1 h0
    · exact .inr ⟨rfl, h1⟩

/-- A property that every word produced keeps, a whole run of words keeps. -/
theorem produceWords_keeps {P : State → Prop}
    (hP : ∀ s w t, P s → produceWord s = .next (w, t) → P t) :
    ∀ (n : Nat) {s t : State} {ws : List Word}, P s → produceWords n s = .next (ws, t) → P t
  | 0, s, t, ws, hs, ht => by
    simp only [produceWords, Host.Outcome.next.injEq, Prod.mk.injEq] at ht; exact ht.2 ▸ hs
  | n + 1, s, t, ws, hs, ht => by
    simp only [produceWords, andThen_eq_next] at ht
    obtain ⟨⟨w, u⟩, hu, ht⟩ := ht
    have hpu := hP s w u hs hu
    simp only at ht
    split at ht
    · simp only [Host.Outcome.next.injEq, Prod.mk.injEq] at ht; exact ht.2 ▸ hpu
    · obtain ⟨⟨ws', v⟩, hv, ht⟩ := andThen_eq_next.1 ht
      simp only [Host.Outcome.next.injEq, Prod.mk.injEq] at ht
      exact ht.2 ▸ produceWords_keeps hP n hpu hv

/-- At most as many words as asked (R166). -/
theorem produceWords_length :
    ∀ (n : Nat) {s t : State} {ws : List Word}, produceWords n s = .next (ws, t) → ws.length ≤ n
  | 0, s, t, ws, ht => by
    simp only [produceWords, Host.Outcome.next.injEq, Prod.mk.injEq] at ht
    simp [← ht.1]
  | n + 1, s, t, ws, ht => by
    simp only [produceWords, andThen_eq_next] at ht
    obtain ⟨⟨w, u⟩, -, ht⟩ := ht
    simp only at ht
    split at ht
    · simp only [Host.Outcome.next.injEq, Prod.mk.injEq] at ht; simp [← ht.1]
    · obtain ⟨⟨ws', v⟩, hv, ht⟩ := andThen_eq_next.1 ht
      simp only [Host.Outcome.next.injEq, Prod.mk.injEq] at ht
      have := produceWords_length n hv
      simp [← ht.1, this]

/-- A property kept by retiring an empty transfer and by every word, a chunk read keeps. -/
theorem readChunk_keeps {P : State → Prop} (hR : ∀ s, P s → P (finishRead s))
    (hP : ∀ s w t, P s → produceWord s = .next (w, t) → P t) {n : Nat} {s t : State}
    {ws : List Word} (hs : P s) (ht : readChunk n s = .next (ws, t)) : P t := by
  have h1 : P (retireRead s) := by
    unfold retireRead; split
    · exact hR s hs
    · exact hs
  unfold readChunk at ht
  simp only at ht
  split at ht
  · simp only [Host.Outcome.next.injEq, Prod.mk.injEq] at ht; exact ht.2 ▸ h1
  · exact produceWords_keeps hP n h1 ht

/-- What a chunk read can write. -/
theorem readChunk_frame {n : Nat} {s t : State} {ws : List Word}
    (ht : readChunk n s = .next (ws, t)) :
    t = { s with gdata := t.gdata, cin := t.cin, inMode := t.inMode, stat := t.stat } := by
  refine readChunk_keeps (P := fun u => u =
    { s with gdata := u.gdata, cin := u.cin, inMode := u.inMode, stat := u.stat })
    (fun u hu => ?_) (fun u w v hu hv => ?_) rfl ht
  · rw [hu]; rfl
  · have h := produceWord_frame hv
    rw [h, hu]

/-! ## The write path -/

theorem retireWrite_of_not_idle {s : State} (h : s.cout ≠ Cursor.idle) : retireWrite s = s := by
  simp [retireWrite, h]

theorem retireWrite_of_normal {s : State} (h : s.outMode = .normal) : retireWrite s = s := by
  simp [retireWrite, h]

/-- A property kept by the two cell stores and the cursor moves is kept by a pixel word. -/
theorem putHighHalf_frame (w : Word) (c : Cursor) (s : State) :
    putHighHalf w c s
      = { s with
        vram := writeHalf s.vram c.cur (w.extractLsb' 16 16)
        cout := (putHighHalf w c s).cout
        outMode := (putHighHalf w c s).outMode
        vsyncReady := (putHighHalf w c s).vsyncReady } := by
  unfold putHighHalf
  simp only
  split <;> rfl

/-- What a pixel word can write. -/
theorem pixelWord_frame {w : Word} {s t : State} (h : pixelWord w s = .next t) :
    t = { s with
      vram := t.vram, cout := t.cout, outMode := t.outMode, vsyncReady := t.vsyncReady } := by
  unfold pixelWord at h
  split at h
  · simp only at h
    split at h
    · split at h
      · simp only [Host.Outcome.next.injEq] at h; subst h; rfl
      · simp only [Host.Outcome.next.injEq] at h; subst h
        rw [putHighHalf_frame]; rfl
    · simp only [Host.Outcome.next.injEq] at h; subst h
      rw [putHighHalf_frame]; rfl
  · cases h

/-- A pixel word through a legal cursor completes. -/
theorem pixelWord_completes {w : Word} {s : State} (h : cursorLegal s.cfg s.cout = true) :
    ∃ t, pixelWord w s = .next t := by
  unfold pixelWord
  simp only [h, if_true]
  repeat' split
  all_goals exact ⟨_, rfl⟩

/-- What one data-port word can write. -/
theorem writeWord_frame {w : Word} {s t : State} (h : writeWord w s = .next t) :
    t = { s with
      stat := t.stat, busy := t.busy, info := t.info, cin := t.cin, cout := t.cout,
      inMode := t.inMode, outMode := t.outMode, vram := t.vram, vsyncReady := t.vsyncReady,
      backend := t.backend, events := t.events } := by
  have hr : retireWrite s = { s with
      cout := (retireWrite s).cout, outMode := (retireWrite s).outMode } := by
    unfold retireWrite
    split
    · simp [finishWrite]
    · rfl
  unfold writeWord at h
  simp only at h
  split at h
  · have := normalWord_frame h
    rw [this, hr]
  · have := pixelWord_frame h
    rw [this, hr]

/-- A property that every word keeps, a chunk keeps. -/
theorem writeChunk_keeps {P : State → Prop}
    (hP : ∀ w s t, P s → writeWord w s = .next t → P t) :
    ∀ (ws : List Word) {s t : State}, P s → writeChunk ws s = .next t → P t
  | [], s, t, hs, ht => by
    simp only [writeChunk, Host.Outcome.next.injEq] at ht; exact ht ▸ hs
  | w :: ws, s, t, hs, ht => by
    simp only [writeChunk, andThen_eq_next] at ht
    obtain ⟨u, hu, ht⟩ := ht
    exact writeChunk_keeps hP ws (hP w s u hs hu) ht

/-- What a chunk can write. -/
theorem writeChunk_frame {ws : List Word} {s t : State} (h : writeChunk ws s = .next t) :
    t = { s with
      stat := t.stat, busy := t.busy, info := t.info, cin := t.cin, cout := t.cout,
      inMode := t.inMode, outMode := t.outMode, vram := t.vram, vsyncReady := t.vsyncReady,
      backend := t.backend, events := t.events } := by
  refine writeChunk_keeps (P := fun u => u = { s with
      stat := u.stat, busy := u.busy, info := u.info, cin := u.cin, cout := u.cout,
      inMode := u.inMode, outMode := u.outMode, vram := u.vram, vsyncReady := u.vsyncReady,
      backend := u.backend, events := u.events }) (fun w u v hu hv => ?_) ws rfl h
  have h := writeWord_frame hv
  rw [hu] at h
  exact h

end Sys2Proof.Machine
end

