-- ==== Sys2Proof/Laws/Memory.lean ====
section
/-! SUPPORT. Byte memories: every operation keeps the canonical form, and what each operation reads
back as. -/

namespace Sys2Proof.Machine

theorem memWf_nil : memWf [] := ⟨List.Pairwise.nil, by simp⟩

theorem memWf_tail {c : Host.Cell} {m : Memory} (h : memWf (c :: m)) : memWf m :=
  ⟨h.1.of_cons, fun d hd => h.2 d (List.mem_cons_of_mem _ hd)⟩

/-- An address that no entry lists reads as 0. -/
theorem readByte_of_not_listed {m : Memory} {a : Nat} (h : ∀ c ∈ m, c.1 ≠ a) :
    readByte m a = 0 := by
  induction m with
  | nil => rfl
  | cons c m ih =>
    have hc : c.1 ≠ a := h c (by simp)
    simp only [readByte, hc, if_false]
    exact ih fun d hd => h d (List.mem_cons_of_mem _ hd)

/-- Below the first entry of a canonical memory every address reads as 0. -/
theorem readByte_of_lt_head {c : Host.Cell} {m : Memory} {a : Nat} (h : memWf (c :: m))
    (ha : a < c.1) : readByte (c :: m) a = 0 := by
  refine readByte_of_not_listed fun d hd => ?_
  rcases List.mem_cons.1 hd with rfl | hd
  · omega
  · have := List.rel_of_pairwise_cons h.1 hd; omega

/-- The entries after a store lie where the old ones did, or at the address stored to. -/
theorem mem_writeByte {m : Memory} {a : Nat} {v : Byte} {c : Host.Cell}
    (h : c ∈ writeByte m a v) : (c = (a, v) ∧ v ≠ 0) ∨ c ∈ m := by
  induction m with
  | nil =>
    unfold writeByte at h
    split at h
    · exact .inr h
    · rename_i hv; exact .inl ⟨List.mem_singleton.1 h, hv⟩
  | cons d m ih =>
    unfold writeByte at h
    split at h
    · split at h
      · exact .inr h
      · rename_i hv
        rcases List.mem_cons.1 h with rfl | h
        · exact .inl ⟨rfl, hv⟩
        · exact .inr h
    · split at h
      · split at h
        · exact .inr (List.mem_cons_of_mem _ h)
        · rename_i hv
          rcases List.mem_cons.1 h with rfl | h
          · exact .inl ⟨rfl, hv⟩
          · exact .inr (List.mem_cons_of_mem _ h)
      · rcases List.mem_cons.1 h with rfl | h
        · exact .inr (by simp)
        · exact (ih h).imp_right (List.mem_cons_of_mem _)

/-- A store keeps the canonical form. -/
theorem writeByte_wf {m : Memory} (h : memWf m) (a : Nat) (v : Byte) :
    memWf (writeByte m a v) := by
  refine ⟨?_, fun c hc => ?_⟩
  · induction m with
    | nil => unfold writeByte; split <;> simp
    | cons d m ih =>
      have hd : ∀ e ∈ m, d.1 < e.1 := fun e he => List.rel_of_pairwise_cons h.1 he
      simp only [writeByte]
      split
      · rename_i hlt
        split
        · exact h.1
        · refine List.pairwise_cons.2 ⟨fun e he => ?_, h.1⟩
          rcases List.mem_cons.1 he with rfl | he
          · exact hlt
          · exact lt_trans hlt (hd e he)
      · split
        · rename_i heq
          split
          · exact h.1.of_cons
          · exact List.pairwise_cons.2 ⟨fun e he => by simpa [heq] using hd e he, h.1.of_cons⟩
        · rename_i hlt heq
          refine List.pairwise_cons.2 ⟨fun e he => ?_, ih (memWf_tail h)⟩
          rcases mem_writeByte he with ⟨rfl, -⟩ | he
          · simp only; omega
          · exact hd e he
  · rcases mem_writeByte hc with ⟨rfl, hv⟩ | hc
    · exact hv
    · exact h.2 c hc

/-- A store below a bound keeps the bound. -/
theorem writeByte_below {m : Memory} {n a : Nat} (h : memBelow n m) (ha : a < n) (v : Byte) :
    memBelow n (writeByte m a v) := by
  intro c hc
  rcases mem_writeByte hc with ⟨rfl, -⟩ | hc
  · exact ha
  · exact h c hc

/-- A read after a store. -/
theorem readByte_writeByte {m : Memory} (h : memWf m) (a : Nat) (v : Byte) (b : Nat) :
    readByte (writeByte m a v) b = if b = a then v else readByte m b := by
  induction m with
  | nil =>
    unfold writeByte
    by_cases hb : b = a
    · subst hb; split <;> simp_all [readByte]
    · split <;> simp [readByte, Ne.symm hb]
  | cons d m ih =>
    have ih := ih (memWf_tail h)
    simp only [writeByte]
    split
    · rename_i hlt
      split
      · rename_i hv
        by_cases hb : b = a
        · subst hb; simp [hv, readByte_of_lt_head h hlt]
        · simp [hb]
      · by_cases hb : b = a
        · simp [readByte, hb]
        · simp [readByte, hb, Ne.symm hb]
    · split
      · rename_i heq
        split
        · rename_i hv
          by_cases hb : b = a
          · subst hb
            simp only [if_true, hv]
            refine readByte_of_not_listed fun e he => ?_
            have := List.rel_of_pairwise_cons h.1 he; omega
          · simp [readByte, hb, ← heq, Ne.symm hb]
        · by_cases hb : b = a
          · simp [readByte, hb]
          · simp [readByte, hb, ← heq, Ne.symm hb]
      · rename_i hlt heq
        simp only [readByte]
        by_cases hd : d.1 = b
        · have : ¬ b = a := by omega
          simp [hd, this]
        · simp [hd, ih]

/-- Storing a cell keeps the canonical form. -/
theorem writeHalf_wf {m : Memory} (h : memWf m) (i : Nat) (v : Half) : memWf (writeHalf m i v) :=
  writeByte_wf (writeByte_wf h _ _) _ _

/-- Storing a cell below a bound keeps the bound. -/
theorem writeHalf_below {m : Memory} {n i : Nat} (h : memBelow (2 * n) m) (hi : i < n) (v : Half) :
    memBelow (2 * n) (writeHalf m i v) :=
  writeByte_below (writeByte_below h (by omega) _) (by omega) _

theorem half_of_bytes (v : Half) :
    (v.extractLsb' 8 8 ++ v.extractLsb' 0 8 : BitVec (8 + 8)) = v := by
  apply BitVec.eq_of_getLsbD_eq
  intro i hi
  simp only [BitVec.getLsbD_append, BitVec.getLsbD_extractLsb']
  split
  · simp_all
  · have : i - 8 < 8 := by omega
    have e : 8 + (i - 8) = i := by omega
    simp [this, e]

/-- A cell read after a cell was stored. -/
theorem readHalf_writeHalf {m : Memory} (h : memWf m) (i : Nat) (v : Half) (j : Nat) :
    readHalf (writeHalf m i v) j = if j = i then v else readHalf m j := by
  unfold readHalf writeHalf
  simp only [readByte_writeByte (writeByte_wf h _ _), readByte_writeByte h]
  by_cases hj : j = i
  · subst hj
    have e : ¬ (2 * j = 2 * j + 1) := by omega
    simp only [e, if_true, if_false]
    exact half_of_bytes v
  · have e1 : ¬ (2 * j + 1 = 2 * i + 1) := by omega
    have e2 : ¬ (2 * j + 1 = 2 * i) := by omega
    have e3 : ¬ (2 * j = 2 * i + 1) := by omega
    have e4 : ¬ (2 * j = 2 * i) := by omega
    simp only [e1, e2, e3, e4, hj, if_false]

/-! ## Rows of bytes, windows and splices -/

theorem mem_bytesAt {base : Nat} {bs : List Byte} {c : Host.Cell} (h : c ∈ bytesAt base bs) :
    base ≤ c.1 ∧ c.1 < base + bs.length ∧ c.2 ≠ 0 := by
  induction bs generalizing base with
  | nil => simp [bytesAt] at h
  | cons b bs ih =>
    simp only [bytesAt] at h
    simp only [List.length_cons]
    split at h
    · have := ih h; exact ⟨by omega, by omega, this.2.2⟩
    · rename_i hb
      rcases List.mem_cons.1 h with rfl | h
      · exact ⟨le_refl _, by simp, hb⟩
      · have := ih h; exact ⟨by omega, by omega, this.2.2⟩

/-- A row of bytes is a canonical memory. -/
theorem bytesAt_wf (base : Nat) (bs : List Byte) : memWf (bytesAt base bs) := by
  refine ⟨?_, fun c hc => (mem_bytesAt hc).2.2⟩
  induction bs generalizing base with
  | nil => simp [bytesAt]
  | cons b bs ih =>
    simp only [bytesAt]
    split
    · exact ih _
    · exact List.pairwise_cons.2 ⟨fun c hc => by have := (mem_bytesAt hc).1; simp only; omega, ih _⟩

/-- A row of bytes reads back as its bytes. -/
theorem readByte_bytesAt (base : Nat) (bs : List Byte) (a : Nat) :
    readByte (bytesAt base bs) a = if base ≤ a then bs.getD (a - base) 0 else 0 := by
  induction bs generalizing base with
  | nil => simp [bytesAt, readByte]
  | cons b bs ih =>
    simp only [bytesAt]
    by_cases ha : a = base
    · subst ha
      split
      · rename_i hb
        rw [readByte_of_not_listed fun c hc => by have := (mem_bytesAt hc).1; omega]
        simp [hb]
      · simp [readByte]
    · have e : (if base + 1 ≤ a then bs.getD (a - (base + 1)) 0 else 0)
          = if base ≤ a then (b :: bs).getD (a - base) 0 else 0 := by
        by_cases hle : base ≤ a
        · have h1 : base + 1 ≤ a := by omega
          have h2 : a - base = (a - (base + 1)) + 1 := by omega
          simp [hle, h1, h2]
        · have h1 : ¬ base + 1 ≤ a := by omega
          simp [hle, h1]
      split
      · rw [ih, e]
      · simp only [readByte, Ne.symm ha, if_false]; rw [ih, e]

theorem mem_takeWindow {m : Memory} {lo len : Nat} {c : Host.Cell}
    (h : c ∈ takeWindow m lo len) : c.1 < len ∧ (c.1 + lo, c.2) ∈ m := by
  simp only [takeWindow, List.mem_map, List.mem_filter, Bool.and_eq_true, decide_eq_true_eq] at h
  obtain ⟨d, ⟨hd, h1, h2⟩, rfl⟩ := h
  refine ⟨by simp only; omega, ?_⟩
  have : d.1 - lo + lo = d.1 := by omega
  simpa [this] using hd

/-- A window of a canonical memory is canonical and ends at its length. -/
theorem takeWindow_wf {m : Memory} (h : memWf m) (lo len : Nat) : memWf (takeWindow m lo len) := by
  refine ⟨?_, fun c hc => h.2 (c.1 + lo, c.2) (mem_takeWindow hc).2⟩
  unfold takeWindow
  rw [List.pairwise_map]
  refine List.Pairwise.imp_of_mem ?_ (h.1.filter _)
  intro a b ha hb hab
  simp only [List.mem_filter, Bool.and_eq_true, decide_eq_true_eq] at ha hb
  simp only; omega

theorem takeWindow_below (m : Memory) (lo len : Nat) : memBelow len (takeWindow m lo len) :=
  fun _ hc => (mem_takeWindow hc).1

theorem readByte_filter {m : Memory} {p : Host.Cell → Bool} {a : Nat}
    (hp : ∀ c ∈ m, c.1 = a → p c = true) : readByte (m.filter p) a = readByte m a := by
  induction m with
  | nil => rfl
  | cons c m ih =>
    have ih := ih fun d hd => hp d (List.mem_cons_of_mem _ hd)
    by_cases hc : c.1 = a
    · simp [hp c (by simp) hc, readByte, hc]
    · by_cases hpc : p c = true <;> simp [hpc, readByte, hc, ih]

theorem readByte_map_inj {m : Memory} {f : Nat → Nat} {a b : Nat}
    (hf : ∀ c ∈ m, f c.1 = b ↔ c.1 = a) :
    readByte (m.map fun c => (f c.1, c.2)) b = readByte m a := by
  induction m with
  | nil => rfl
  | cons c m ih =>
    have ih := ih fun d hd => hf d (List.mem_cons_of_mem _ hd)
    have hc := hf c (by simp)
    by_cases h : c.1 = a
    · have := hc.2 h
      simp [readByte, h, h ▸ this]
    · have : ¬ f c.1 = b := fun e => h (hc.1 e)
      simp [readByte, h, this, ih]

/-- A window reads as the memory it was taken from. -/
theorem readByte_takeWindow (m : Memory) (lo len a : Nat) :
    readByte (takeWindow m lo len) a = if a < len then readByte m (a + lo) else 0 := by
  split
  · rename_i ha
    have h1 := readByte_map_inj (m := m.filter fun c => decide (lo ≤ c.1) && decide (c.1 < lo + len))
      (f := fun x => x - lo) (a := a + lo) (b := a) (by
        intro c hc
        simp only [List.mem_filter, Bool.and_eq_true, decide_eq_true_eq] at hc
        omega)
    unfold takeWindow
    rw [h1]
    refine readByte_filter fun c _ hca => ?_
    simp only [Bool.and_eq_true, decide_eq_true_eq]; omega
  · rename_i ha
    exact readByte_of_not_listed fun c hc => by have := (mem_takeWindow hc).1; omega

theorem mem_shiftUp {base : Nat} {m : Memory} {c : Host.Cell} (h : c ∈ shiftUp base m) :
    base ≤ c.1 ∧ (c.1 - base, c.2) ∈ m := by
  simp only [shiftUp, List.mem_map] at h
  obtain ⟨d, hd, rfl⟩ := h
  exact ⟨by simp, by simpa using hd⟩

/-- Moving a memory up keeps the canonical form. -/
theorem shiftUp_wf {m : Memory} (h : memWf m) (base : Nat) : memWf (shiftUp base m) := by
  refine ⟨?_, fun c hc => h.2 (c.1 - base, c.2) (mem_shiftUp hc).2⟩
  unfold shiftUp
  rw [List.pairwise_map]
  exact h.1.imp fun hab => by simp only; omega

theorem readByte_shiftUp (m : Memory) (base a : Nat) :
    readByte (shiftUp base m) a = if base ≤ a then readByte m (a - base) else 0 := by
  split
  · exact readByte_map_inj (f := fun x => x + base) fun c _ => by omega
  · exact readByte_of_not_listed fun c hc => by have := (mem_shiftUp hc).1; omega

theorem mem_spliceMem {m seg : Memory} {lo len : Nat} {c : Host.Cell}
    (h : c ∈ spliceMem m lo len seg) : (c ∈ m ∧ (c.1 < lo ∨ lo + len ≤ c.1)) ∨ c ∈ seg := by
  simp only [spliceMem, List.mem_append, List.mem_filter, decide_eq_true_eq] at h
  tauto

/-- A splice of canonical memories is canonical when the new part stays inside its place. -/
theorem spliceMem_wf {m seg : Memory} {lo len : Nat} (h : memWf m) (hs : memWf seg)
    (hin : ∀ c ∈ seg, lo ≤ c.1 ∧ c.1 < lo + len) : memWf (spliceMem m lo len seg) := by
  refine ⟨?_, fun c hc => ?_⟩
  · unfold spliceMem
    simp only [List.pairwise_append, List.mem_append, List.mem_filter, decide_eq_true_eq]
    refine ⟨⟨h.1.filter _, hs.1, fun a ha b hb => ?_⟩, h.1.filter _, fun a ha b hb => ?_⟩
    · have := hin b hb; omega
    · rcases ha with ha | ha
      · omega
      · have := hin a ha; omega
  · rcases mem_spliceMem hc with ⟨hc, -⟩ | hc
    · exact h.2 c hc
    · exact hs.2 c hc

theorem readByte_append {m n : Memory} {a : Nat} (h : ∀ c ∈ m, c.1 ≠ a) :
    readByte (m ++ n) a = readByte n a := by
  induction m with
  | nil => rfl
  | cons c m ih =>
    have hc : c.1 ≠ a := h c (by simp)
    simp only [List.cons_append, readByte, hc, if_false]
    exact ih fun d hd => h d (List.mem_cons_of_mem _ hd)

theorem readByte_append_left {m n : Memory} {a : Nat} (h : ∀ c ∈ n, c.1 ≠ a) :
    readByte (m ++ n) a = readByte m a := by
  induction m with
  | nil => exact readByte_of_not_listed h
  | cons c m ih =>
    by_cases hc : c.1 = a <;> simp [readByte, hc, ih]

/-- A splice reads as its new part inside its place and as the old memory outside. -/
theorem readByte_spliceMem {m seg : Memory} {lo len : Nat}
    (hin : ∀ c ∈ seg, lo ≤ c.1 ∧ c.1 < lo + len) (a : Nat) :
    readByte (spliceMem m lo len seg) a
      = if lo ≤ a ∧ a < lo + len then readByte seg a else readByte m a := by
  unfold spliceMem
  split
  · rename_i ha
    rw [readByte_append_left (by
      intro c hc; simp only [List.mem_filter, decide_eq_true_eq] at hc; omega)]
    exact readByte_append (by
      intro c hc; simp only [List.mem_filter, decide_eq_true_eq] at hc; omega)
  · rename_i ha
    by_cases hlo : a < lo
    · rw [List.append_assoc, readByte_append_left, readByte_filter]
      · intro c _ hc; simp only [decide_eq_true_eq]; omega
      · intro c hc
        simp only [List.mem_append, List.mem_filter, decide_eq_true_eq] at hc
        rcases hc with hc | hc
        · have := hin c hc; omega
        · omega
    · rw [readByte_append, readByte_filter]
      · intro c _ hc; simp only [decide_eq_true_eq]; omega
      · intro c hc
        simp only [List.mem_append, List.mem_filter, decide_eq_true_eq] at hc
        rcases hc with hc | hc
        · omega
        · have := hin c hc; omega

end Sys2Proof.Machine
end

