-- ==== Sys2Proof/Laws/Invariant.lean ====
section
/-! SUPPORT. The shared operations of the two ports keep the invariant `Inv`, one lemma an operation. -/

namespace Sys2Proof.Machine

/-- The invariant speaks of no status bit, table entry, latch, event, answer or free value. -/
theorem Inv.of_same {s t : State} (h : Inv s)
    (e : t = { s with
      stat := t.stat, ctl := t.ctl, gdata := t.gdata, info := t.info, vsyncReady := t.vsyncReady,
      backend := t.backend, requests := t.requests, events := t.events, answer := t.answer,
      freeCount := t.freeCount }) : Inv t := by
  rw [e]
  exact { h with }

/-- A change of the geometry keeps the invariant when the new one is inside its ranges. -/
theorem Inv.set_geo {s : State} (h : Inv s) {g : Geometry} (hg : GeometryOk s.cfg g) :
    Inv { s with geo := g } :=
  { h with geoOk := hg }

/-! ## The cursors and the modes -/

theorem Inv.set_cin {s : State} (h : Inv s) {c : Cursor} {m : PortMode} (hc : CursorOk s.cfg c)
    (hm : c ≠ Cursor.idle → m = .vramTransfer) : Inv { s with cin := c, inMode := m } :=
  { h with cinOk := hc, cinMode := hm }

theorem Inv.set_cout {s : State} (h : Inv s) {c : Cursor} {m : PortMode} (hc : CursorOk s.cfg c)
    (hm : c ≠ Cursor.idle → m = .vramTransfer) : Inv { s with cout := c, outMode := m } :=
  { h with coutOk := hc, coutMode := hm }

/-- Storing a cell inside VRAM keeps the invariant. -/
theorem Inv.set_cell {s : State} (h : Inv s) {i : Nat} (hi : i < s.cfg.vramCells) (v : Half) :
    Inv (setVramCell i v s) :=
  { h with
    vramWf := writeHalf_wf h.vramWf i v
    vramBelow := by
      have hb := h.vramBelow
      rw [vramBytes_eq] at hb
      show memBelow s.cfg.vramBytes _
      rw [vramBytes_eq]
      exact writeHalf_below hb hi v }

theorem finishRead_keeps_inv {s : State} (h : Inv s) : Inv (finishRead s) :=
  ((h.set_cin (c := Cursor.idle) (m := .normal) (.inl rfl) (fun e => absurd rfl e)).of_same
    (t := finishRead s) rfl)

theorem finishWrite_keeps_inv {s : State} (h : Inv s) (drawn : Bool) :
    Inv (finishWrite drawn s) :=
  ((h.set_cout (c := Cursor.idle) (m := .normal) (.inl rfl) (fun e => absurd rfl e)).of_same
    (t := finishWrite drawn s) rfl)

theorem retireRead_keeps_inv {s : State} (h : Inv s) : Inv (retireRead s) := by
  unfold retireRead
  split
  · exact finishRead_keeps_inv h
  · exact h

theorem retireWrite_keeps_inv {s : State} (h : Inv s) : Inv (retireWrite s) := by
  unfold retireWrite
  split
  · exact finishWrite_keeps_inv h false
  · exact h

theorem defineArea_keeps_inv {dir : Direction} {x y w hh : Int} {s t : State} (h : Inv s)
    (ht : defineArea dir x y w hh s = .next t) : Inv t := by
  obtain ⟨hr, ⟨-, rfl⟩ | ⟨-, rfl⟩⟩ := defineArea_eq_next ht
  · exact (h.set_cin (.inr (armedCursor_legal hr)) (fun _ => rfl)).of_same rfl
  · exact h.set_cout (.inr (armedCursor_legal hr)) (fun _ => rfl)

/-! ## The back end -/

theorem runCall_keeps_inv {c : BackendCall} {s t : State} (h : Inv s)
    (ht : runCall c s = .next t) : Inv t := by
  cases c with
  | defineArea dir x y w hh => exact defineArea_keeps_inv h ht
  | busyKick =>
    simp only [runCall, Host.Outcome.next.injEq] at ht; subst ht
    exact { h with busyLe := le_refl _ }
  | statSet m =>
    simp only [runCall, statSetCall] at ht
    split at ht
    · simp only [Host.Outcome.next.injEq] at ht; subst ht; exact h.of_same rfl
    · cases ht
  | statClr m =>
    simp only [runCall, statClrCall] at ht
    split at ht
    · simp only [Host.Outcome.next.injEq] at ht; subst ht; exact h.of_same rfl
    · cases ht
  | infoStore e v =>
    simp only [runCall, Host.Outcome.next.injEq] at ht; subst ht; exact h.of_same rfl

theorem normalWord_keeps_inv {w : Word} {s t : State} (h : Inv s)
    (ht : normalWord w s = .next t) : Inv t := by
  unfold normalWord at ht
  split at ht
  · simp only [Host.Outcome.next.injEq] at ht; subst ht; exact h.of_same rfl
  · refine runCalls_keeps (P := Inv) (fun _ _ _ hs hc => runCall_keeps_inv hs hc) _ ?_ ht
    exact h.of_same rfl

/-! ## The data port -/

theorem produceWord_keeps_inv {s t : State} {w : Word} (h : Inv s)
    (ht : produceWord s = .next (w, t)) : Inv t := by
  have hm := produceWord_mode ht
  have hl := (produceWord_eq_next ht).1
  have hin := h.cinMode (cursorLegal_not_idle hl)
  have hf := produceWord_frame ht
  have h1 : Inv { s with cin := t.cin, inMode := t.inMode } := by
    rcases hm with ⟨-, hc⟩ | ⟨hmode, hc⟩
    · exact h.set_cin (.inl hc) (fun e => absurd hc e)
    · exact h.set_cin (.inr hc) (fun _ => hmode.trans hin)
  exact h1.of_same (by rw [hf])

theorem readChunk_keeps_inv {n : Nat} {s t : State} {ws : List Word} (h : Inv s)
    (ht : readChunk n s = .next (ws, t)) : Inv t :=
  readChunk_keeps (P := Inv) (fun _ hs => finishRead_keeps_inv hs)
    (fun _ _ _ hs hp => produceWord_keeps_inv hs hp) h ht

/-- The cursor handed to the high half is inside VRAM and, stepped, exhausted or legal. -/
theorem putHighHalf_keeps_inv {w : Word} {c : Cursor} {s : State} (h : Inv s)
    (hm : s.outMode = .vramTransfer) (hc : cursorLegal s.cfg c = true) :
    Inv (putHighHalf w c s) := by
  unfold putHighHalf
  have h1 := h.set_cell ((cursorLegal_iff _ _).1 hc).2.2.2.2.2.2.2.2 (w.extractLsb' 16 16)
  simp only
  split
  · exact finishWrite_keeps_inv h1 true
  · rename_i h0
    rcases (stepCursor_legal hc).2 with h2 | h2
    · exact absurd h2 h0
    · exact { h1 with coutOk := .inr h2, coutMode := fun _ => hm }

/-- A cursor advanced by a cell that is not the last of its row is legal. -/
theorem advanceCell_legal {p : Params} {c : Cursor} (h : cursorLegal p c = true)
    (hr : (advanceCell p.vramCells c).rr ≠ 0) :
    cursorLegal p (advanceCell p.vramCells c) = true := by
  have hl := (cursorLegal_iff p c).1 h
  have hrows := vramRows_pos p
  have hc := vramCells_eq p
  rw [advanceCell_eq h] at hr ⊢
  rw [cursorLegal_iff]
  have := Nat.mod_lt (c.cur + 1) (by omega : 0 < p.vramCells)
  refine ⟨?_, ?_, ?_, ?_, ?_, ?_, ?_, ?_, ?_⟩ <;> simp only at hr ⊢ <;> omega

/-- A cursor moved to its next row is legal while rows are left. -/
theorem nextRow_legal {p : Params} {c : Cursor} (h : cursorLegal p c = true)
    (hr : (advanceCell p.vramCells c).rc - 1 ≠ 0) :
    cursorLegal p (nextRow p.vramCells
      { advanceCell p.vramCells c with rc := (advanceCell p.vramCells c).rc - 1 }) = true := by
  have hl := (cursorLegal_iff p c).1 h
  have hrows := vramRows_pos p
  have hc := vramCells_eq p
  have h0 : 0 < p.vramCells := by omega
  rw [advanceCell_eq h] at hr ⊢
  have h1 := Nat.mod_lt (c.cur + 1) h0
  rw [nextRow_eq (by simp only; omega) (by simp only; omega)]
  rw [cursorLegal_iff]
  have := Nat.mod_lt ((c.cur + 1) % p.vramCells + (1024 - c.w)) h0
  refine ⟨?_, ?_, ?_, ?_, ?_, ?_, ?_, ?_, ?_⟩ <;> simp only at hr ⊢ <;> omega

theorem pixelWord_keeps_inv {w : Word} {s t : State} (h : Inv s)
    (hm : s.outMode = .vramTransfer) (ht : pixelWord w s = .next t) : Inv t := by
  unfold pixelWord at ht
  split at ht
  · rename_i hl
    have hcur := ((cursorLegal_iff _ _).1 hl).2.2.2.2.2.2.2.2
    have h1 := h.set_cell hcur (w.extractLsb' 0 16)
    simp only at ht
    split at ht
    · split at ht
      · simp only [Host.Outcome.next.injEq] at ht; subst ht
        exact finishWrite_keeps_inv h1 true
      · rename_i hrc
        simp only [Host.Outcome.next.injEq] at ht; subst ht
        exact putHighHalf_keeps_inv h1 hm (nextRow_legal hl hrc)
    · rename_i hrr
      simp only [Host.Outcome.next.injEq] at ht; subst ht
      exact putHighHalf_keeps_inv h1 hm (advanceCell_legal hl hrr)
  · cases ht

theorem writeWord_keeps_inv {w : Word} {s t : State} (h : Inv s)
    (ht : writeWord w s = .next t) : Inv t := by
  unfold writeWord at ht
  simp only at ht
  split at ht
  · exact normalWord_keeps_inv (retireWrite_keeps_inv h) ht
  · rename_i hm
    exact pixelWord_keeps_inv (retireWrite_keeps_inv h) hm ht

theorem writeChunk_keeps_inv {ws : List Word} {s t : State} (h : Inv s)
    (ht : writeChunk ws s = .next t) : Inv t :=
  writeChunk_keeps (P := Inv) (fun _ _ _ hs hw => writeWord_keeps_inv hs hw) ws h ht

/-! ## No defect under the invariant (60_exceptions.md R273) -/

theorem produceWord_not_fault {s : State} (hl : cursorLegal s.cfg s.cin = true) (e : Fault) :
    produceWord s ≠ .fault e := by
  unfold produceWord; simp [hl]

theorem readChunk_not_fault {n : Nat} {s : State} (h : Inv s) (e : Fault) :
    readChunk n s ≠ .fault e := by
  have hwords : ∀ (n : Nat) (s : State), Inv s → cursorLegal s.cfg s.cin = true →
      produceWords n s ≠ .fault e := by
    intro n
    induction n with
    | zero => intro s _ _; simp [produceWords]
    | succ n ih =>
      intro s hi hl hf
      simp only [produceWords] at hf
      rcases andThen_eq_fault.1 hf with hf | ⟨⟨w, u⟩, hu, hf⟩
      · exact produceWord_not_fault hl e hf
      · simp only at hf
        split at hf
        · cases hf
        · rename_i hmode
          rcases andThen_eq_fault.1 hf with hf | ⟨x, -, hf⟩
          · refine ih u (produceWord_keeps_inv hi hu) ?_ hf
            rcases produceWord_mode hu with ⟨h1, -⟩ | ⟨-, h1⟩
            · exact absurd h1 hmode
            · rw [produceWord_frame hu]; exact h1
          · cases hf
  have hr := retireRead_keeps_inv h
  unfold readChunk
  simp only
  split
  · simp
  · rename_i hm
    refine hwords n _ hr ?_
    rcases hr.cinOk with hc | hc
    · exfalso
      revert hm hc
      unfold retireRead
      split
      · intro h1 _; exact h1 rfl
      · rename_i hx
        intro h1 h2
        have h3 : s.inMode = .vramTransfer := by
          cases hmm : s.inMode with
          | normal => exact absurd hmm h1
          | vramTransfer => rfl
        exact hx ⟨h3, h2⟩
    · exact hc

theorem writeWord_not_fault {w : Word} {s : State} (h : Inv s) (e : Fault) :
    writeWord w s ≠ .fault e := by
  have hr := retireWrite_keeps_inv h
  unfold writeWord
  simp only
  split
  · exact normalWord_not_fault _ _ _
  · rename_i hm
    have hl : cursorLegal (retireWrite s).cfg (retireWrite s).cout = true := by
      rcases hr.coutOk with hc | hc
      · exfalso
        revert hm hc
        unfold retireWrite
        split
        · intro h1 _; cases h1
        · rename_i hx
          intro h1 h2
          exact hx ⟨h1, h2⟩
      · exact hc
    obtain ⟨t, ht⟩ := pixelWord_completes (w := w) hl
    rw [ht]; simp

theorem writeChunk_not_fault {ws : List Word} {s : State} (h : Inv s) (e : Fault) :
    writeChunk ws s ≠ .fault e := by
  induction ws generalizing s with
  | nil => simp [writeChunk]
  | cons w ws ih =>
    intro hf
    rcases andThen_eq_fault.1 hf with hf | ⟨u, hu, hf⟩
    · exact writeWord_not_fault h e hf
    · exact ih (writeWord_keeps_inv h hu) hf

end Sys2Proof.Machine
end

