-- ==== Sys2Proof/Laws/Chain.lean ====
section
/-! SUPPORT. The chain walker writes only through the write path, and what the write path keeps a
whole walk keeps. -/

namespace Sys2Proof.Machine

/-- A word of system memory read, or the refusal past its end (20_memory.md R82). -/
theorem baseWord_eq_next {s : State} {i : Nat} {w : Word} (h : baseWord s i = .next w) :
    i < s.cfg.memWords ∧ w = readWord s.sysMem (4 * i) := by
  unfold baseWord at h
  split at h
  · rename_i hi
    simp only [Host.Outcome.next.injEq] at h
    exact ⟨hi, h.symm⟩
  · cases h

theorem baseWord_not_fault (s : State) (i : Nat) (e : Fault) : baseWord s i ≠ .fault e := by
  unfold baseWord; split <;> simp

/-- A node delivered is one chunk written, its payload inside memory (42_dma_chain.md R196). -/
theorem deliverNode_eq_next {a : Addr} {hdr : Word} {s t : State}
    (h : deliverNode a hdr s = .next t) :
    wordIndex a + (headerCount hdr).toNat < s.cfg.memWords
      ∧ writeChunk (payloadWords s (wordIndex a + 1) (headerCount hdr).toNat) s = .next t := by
  unfold deliverNode at h
  split at h
  · exact ⟨‹_›, h⟩
  · cases h

/-- The payload has the length its count says. -/
theorem payloadWords_length (s : State) (i n : Nat) : (payloadWords s i n).length = n := by
  induction n generalizing i with
  | zero => rfl
  | succ n ih => simp [payloadWords, ih]

/-- Word `k` of a payload (42_dma_chain.md R196). -/
theorem payloadWords_getElem? (s : State) (i n k : Nat) (h : k < n) :
    (payloadWords s i n)[k]? = some (readWord s.sysMem (4 * (i + k))) := by
  induction n generalizing i k with
  | zero => omega
  | succ n ih =>
    cases k with
    | zero => simp [payloadWords]
    | succ k =>
      simp only [payloadWords, List.getElem?_cons_succ]
      rw [ih (i + 1) k (by omega)]
      congr 3; omega

/-- One turn of the walk (42_dma_chain.md R193): a node entered, its header read, its payload
delivered, and the rest of the walk; or the walk over. -/
theorem chainWalk_succ_eq_next {n : Nat} {k : Walk} {s t : State}
    (h : chainWalk (n + 1) k s = .next t) :
    (enterNode s.cfg k = none ∧ t = s) ∨
      ∃ a u, enterNode s.cfg k = some a
        ∧ deliverNode a (readWord s.sysMem (4 * wordIndex a)) s = .next u
        ∧ chainWalk n (leaveNode k a (readWord s.sysMem (4 * wordIndex a))) u = .next t := by
  simp only [chainWalk] at h
  split at h
  · rename_i he
    simp only [Host.Outcome.next.injEq] at h
    exact .inl ⟨he, h.symm⟩
  · rename_i a he
    obtain ⟨hdr, hh, h⟩ := andThen_eq_next.1 h
    obtain ⟨u, hu, h⟩ := andThen_eq_next.1 h
    obtain ⟨-, rfl⟩ := baseWord_eq_next hh
    exact .inr ⟨a, u, he, hu, h⟩

/-- A property that every chunk keeps, a walk keeps. -/
theorem chainWalk_keeps {P : State → Prop}
    (hP : ∀ ws s t, P s → writeChunk ws s = .next t → P t) :
    ∀ (n : Nat) {k : Walk} {s t : State}, P s → chainWalk n k s = .next t → P t
  | 0, k, s, t, hs, ht => by
    simp only [chainWalk, Host.Outcome.next.injEq] at ht; exact ht ▸ hs
  | n + 1, k, s, t, hs, ht => by
    rcases chainWalk_succ_eq_next ht with ⟨-, rfl⟩ | ⟨a, u, -, hu, ht⟩
    · exact hs
    · exact chainWalk_keeps hP n (hP _ s u hs (deliverNode_eq_next hu).2) ht

theorem walkFromHeader_keeps {P : State → Prop}
    (hP : ∀ ws s t, P s → writeChunk ws s = .next t → P t) {node : Addr} {hdr : Word}
    {s t : State} (hs : P s) (ht : walkFromHeader node hdr s = .next t) : P t := by
  unfold walkFromHeader at ht
  split at ht
  · simp only [Host.Outcome.next.injEq] at ht; exact ht ▸ hs
  · split at ht
    · simp only [Host.Outcome.next.injEq] at ht; exact ht ▸ hs
    · obtain ⟨u, hu, ht⟩ := andThen_eq_next.1 ht
      exact chainWalk_keeps hP _ (hP _ s u hs (deliverNode_eq_next hu).2) ht

theorem chainWalk_keeps_inv {n : Nat} {k : Walk} {s t : State} (h : Inv s)
    (ht : chainWalk n k s = .next t) : Inv t :=
  chainWalk_keeps (P := Inv) (fun _ _ _ hs hw => writeChunk_keeps_inv hs hw) n h ht

theorem walkFromHeader_keeps_inv {node : Addr} {hdr : Word} {s t : State} (h : Inv s)
    (ht : walkFromHeader node hdr s = .next t) : Inv t :=
  walkFromHeader_keeps (P := Inv) (fun _ _ _ hs hw => writeChunk_keeps_inv hs hw) h ht

theorem deliverNode_not_fault {a : Addr} {hdr : Word} {s : State} (h : Inv s) (e : Fault) :
    deliverNode a hdr s ≠ .fault e := by
  unfold deliverNode
  split
  · exact writeChunk_not_fault h e
  · simp

theorem chainWalk_not_fault (n : Nat) {k : Walk} {s : State} (h : Inv s) (e : Fault) :
    chainWalk n k s ≠ .fault e := by
  induction n generalizing k s with
  | zero => simp [chainWalk]
  | succ n ih =>
    intro hf
    simp only [chainWalk] at hf
    split at hf
    · cases hf
    · rcases andThen_eq_fault.1 hf with hf | ⟨hdr, -, hf⟩
      · exact baseWord_not_fault _ _ _ hf
      · rcases andThen_eq_fault.1 hf with hf | ⟨u, hu, hf⟩
        · exact deliverNode_not_fault h e hf
        · exact ih (writeChunk_keeps_inv h (deliverNode_eq_next hu).2) hf

theorem walkFromHeader_not_fault {node : Addr} {hdr : Word} {s : State} (h : Inv s) (e : Fault) :
    walkFromHeader node hdr s ≠ .fault e := by
  intro hf
  unfold walkFromHeader at hf
  split at hf
  · cases hf
  · split at hf
    · cases hf
    · rcases andThen_eq_fault.1 hf with hf | ⟨u, hu, hf⟩
      · exact deliverNode_not_fault h e hf
      · exact chainWalk_not_fault _ (writeChunk_keeps_inv h (deliverNode_eq_next hu).2) e hf

end Sys2Proof.Machine
end

