-- ==== Sys2Proof/Laws/Encoding.lean ====
section
/-! SUPPORT. Bit fields taken from words and words put together from bit fields, and the opcode and
fields of every status-port word the encoder builds. -/

namespace Sys2Proof

/-! ## Fields of an append, appends of fields -/

theorem extract_append_low {n m : Nat} (x : BitVec n) (y : BitVec m) :
    (x ++ y).extractLsb' 0 m = y := by
  apply BitVec.eq_of_getLsbD_eq
  intro i hi
  simp [BitVec.getLsbD_append, hi]

theorem extract_append_high {n m : Nat} (x : BitVec n) (y : BitVec m) (k l : Nat) :
    (x ++ y).extractLsb' (m + k) l = x.extractLsb' k l := by
  apply BitVec.eq_of_getLsbD_eq
  intro i hi
  have h1 : ¬ m + k + i < m := by omega
  have h2 : m + k + i - m = k + i := by omega
  simp [BitVec.getLsbD_append, hi, h1, h2]

theorem extract_all {n : Nat} (x : BitVec n) : x.extractLsb' 0 n = x := by
  apply BitVec.eq_of_getLsbD_eq
  intro i hi
  simp [hi]

/-- The field just above the low part of an append. -/
theorem extract_append_top {n m : Nat} (x : BitVec n) (y : BitVec m) :
    (x ++ y).extractLsb' m n = x := by
  have h := extract_append_high x y 0 n
  rw [extract_all, Nat.add_zero] at h
  exact h

/-- Two neighbouring fields put together are the field they make up. -/
theorem append_extract {n : Nat} (w : BitVec n) (s a b : Nat) :
    w.extractLsb' (s + b) a ++ w.extractLsb' s b = w.extractLsb' s (a + b) := by
  apply BitVec.eq_of_getLsbD_eq
  intro i hi
  simp only [BitVec.getLsbD_extractLsb', BitVec.getLsbD_append, hi, decide_true, Bool.true_and]
  by_cases h : i < b
  · simp [h]
  · have h1 : i - b < a := by omega
    have h2 : s + b + (i - b) = s + i := by omega
    simp [h, h1, h2]

/-! ## The status-port words -/

/-- A word is its opcode and its parameter (30_encoding.md R103). -/
theorem opcode_append_param (w : Word) : (opcodeOf w ++ paramOf w : BitVec (8 + 24)) = w :=
  (append_extract w 0 8 24).trans (extract_all w)

theorem opcodeOf_append (op : BitVec 8) (param : BitVec 24) :
    opcodeOf (op ++ param : BitVec (8 + 24)) = op := extract_append_top op param

theorem paramOf_append (op : BitVec 8) (param : BitVec 24) :
    paramOf (op ++ param : BitVec (8 + 24)) = param := extract_append_low op param

theorem opcodeOf_rawWord (op : BitVec 8) (param : BitVec 24) : opcodeOf (rawWord op param) = op :=
  opcodeOf_append op param

theorem paramOf_rawWord (op : BitVec 8) (param : BitVec 24) :
    paramOf (rawWord op param) = param := paramOf_append op param

theorem opcodeOf_resetWord (p : Params) (param : BitVec 24) :
    opcodeOf (resetWord p param) = p.ops.reset :=
  opcodeOf_append _ param

theorem opcodeOf_displayWord (p : Params) (ignored : BitVec 23) (off : BitVec 1) :
    opcodeOf (displayWord p ignored off) = p.ops.toggleDisplay :=
  (extract_append_high _ _ 23 8).trans (extract_append_top _ _)

theorem opcodeOf_modeWord (p : Params) (ignored : BitVec 22) (m : BitVec 2) :
    opcodeOf (modeWord p ignored m) = p.ops.setTransferMode :=
  (extract_append_high _ _ 22 8).trans (extract_append_top _ _)

theorem opcodeOf_posWord (p : Params) (yField : BitVec 14) (x : BitVec 10) :
    opcodeOf (posWord p yField x) = p.ops.setDisplayPosition :=
  (extract_append_high _ _ 14 8).trans (extract_append_top _ _)

theorem opcodeOf_hrangeWord (p : Params) (right left : BitVec 12) :
    opcodeOf (hrangeWord p right left) = p.ops.setDisplayWidth :=
  (extract_append_high _ _ 12 8).trans (extract_append_top _ _)

theorem opcodeOf_vrangeWord (p : Params) (ignored : BitVec 4) (bottom top : BitVec 10) :
    opcodeOf (vrangeWord p ignored bottom top) = p.ops.setDisplayHeight :=
  (extract_append_high _ _ 14 8).trans
    ((extract_append_high _ _ 4 8).trans (extract_append_top _ _))

theorem opcodeOf_infoWord (p : Params) (ignored : BitVec 16)
    (ignored7 presetHi lace rgb24 pal dbl : BitVec 1)
    (presetLo : BitVec 2) :
    opcodeOf (infoWord p ignored ignored7 presetHi lace rgb24 pal dbl presetLo)
      = p.ops.setDisplayInfo :=
  (extract_append_high _ _ 22 8).trans <| (extract_append_high _ _ 21 8).trans <|
    (extract_append_high _ _ 20 8).trans <| (extract_append_high _ _ 19 8).trans <|
    (extract_append_high _ _ 18 8).trans <| (extract_append_high _ _ 17 8).trans <|
    (extract_append_high _ _ 16 8).trans (extract_append_top _ _)

theorem opcodeOf_requestWord (p : Params) (ignored : BitVec 16) (sub : BitVec 8) :
    opcodeOf (requestWord p ignored sub) = p.ops.gpuRequest :=
  (extract_append_high _ _ 16 8).trans (extract_append_top _ _)

/-- The fields of a GpuRequest word (30_encoding.md R112). -/
theorem requestWord_fields (p : Params) (ignored : BitVec 16) (sub : BitVec 8) :
    (requestWord p ignored sub).extractLsb' 0 8 = sub
      ∧ (requestWord p ignored sub).extractLsb' 8 16 = ignored :=
  ⟨extract_append_low _ _, (extract_append_high _ _ 0 16).trans (extract_append_low _ _)⟩

theorem displayWord_fields (p : Params) (ignored : BitVec 23) (off : BitVec 1) :
    (displayWord p ignored off).extractLsb' 1 23 = ignored
      ∧ (displayWord p ignored off).extractLsb' 0 1 = off :=
  ⟨(extract_append_high _ _ 0 23).trans (extract_append_low _ _), extract_append_low _ _⟩

theorem modeWord_fields (p : Params) (ignored : BitVec 22) (m : BitVec 2) :
    (modeWord p ignored m).extractLsb' 2 22 = ignored ∧ (modeWord p ignored m).extractLsb' 0 2 = m :=
  ⟨(extract_append_high _ _ 0 22).trans (extract_append_low _ _), extract_append_low _ _⟩

theorem posWord_fields (p : Params) (yField : BitVec 14) (x : BitVec 10) :
    (posWord p yField x).extractLsb' 10 14 = yField ∧ (posWord p yField x).extractLsb' 0 10 = x :=
  ⟨(extract_append_high _ _ 0 14).trans (extract_append_low _ _), extract_append_low _ _⟩

theorem hrangeWord_fields (p : Params) (right left : BitVec 12) :
    (hrangeWord p right left).extractLsb' 12 12 = right
      ∧ (hrangeWord p right left).extractLsb' 0 12 = left :=
  ⟨(extract_append_high _ _ 0 12).trans (extract_append_low _ _), extract_append_low _ _⟩

theorem vrangeWord_fields (p : Params) (ignored : BitVec 4) (bottom top : BitVec 10) :
    (vrangeWord p ignored bottom top).extractLsb' 20 4 = ignored
      ∧ (vrangeWord p ignored bottom top).extractLsb' 10 10 = bottom
      ∧ (vrangeWord p ignored bottom top).extractLsb' 0 10 = top :=
  ⟨(extract_append_high _ _ 10 4).trans
      ((extract_append_high _ _ 0 4).trans (extract_append_low _ _)),
    (extract_append_high _ _ 0 10).trans (extract_append_low _ _), extract_append_low _ _⟩

theorem infoWord_fields (p : Params) (ignored : BitVec 16)
    (ignored7 presetHi lace rgb24 pal dbl : BitVec 1)
    (presetLo : BitVec 2) :
    let w := infoWord p ignored ignored7 presetHi lace rgb24 pal dbl presetLo
    w.extractLsb' 8 16 = ignored ∧ w.extractLsb' 7 1 = ignored7 ∧ w.extractLsb' 6 1 = presetHi
      ∧ w.extractLsb' 5 1 = lace ∧ w.extractLsb' 4 1 = rgb24 ∧ w.extractLsb' 3 1 = pal
      ∧ w.extractLsb' 2 1 = dbl ∧ w.extractLsb' 0 2 = presetLo :=
  ⟨(extract_append_high _ _ 6 16).trans <| (extract_append_high _ _ 5 16).trans <|
      (extract_append_high _ _ 4 16).trans <| (extract_append_high _ _ 3 16).trans <|
      (extract_append_high _ _ 2 16).trans <| (extract_append_high _ _ 1 16).trans <|
      (extract_append_high _ _ 0 16).trans (extract_append_low _ _),
    (extract_append_high _ _ 5 1).trans <| (extract_append_high _ _ 4 1).trans <|
      (extract_append_high _ _ 3 1).trans <| (extract_append_high _ _ 2 1).trans <|
      (extract_append_high _ _ 1 1).trans <|
      (extract_append_high _ _ 0 1).trans (extract_append_low _ _),
    (extract_append_high _ _ 4 1).trans <| (extract_append_high _ _ 3 1).trans <|
      (extract_append_high _ _ 2 1).trans <| (extract_append_high _ _ 1 1).trans <|
      (extract_append_high _ _ 0 1).trans (extract_append_low _ _),
    (extract_append_high _ _ 3 1).trans <| (extract_append_high _ _ 2 1).trans <|
      (extract_append_high _ _ 1 1).trans <|
      (extract_append_high _ _ 0 1).trans (extract_append_low _ _),
    (extract_append_high _ _ 2 1).trans <| (extract_append_high _ _ 1 1).trans <|
      (extract_append_high _ _ 0 1).trans (extract_append_low _ _),
    (extract_append_high _ _ 1 1).trans <|
      (extract_append_high _ _ 0 1).trans (extract_append_low _ _),
    (extract_append_high _ _ 0 1).trans (extract_append_low _ _), extract_append_low _ _⟩

/-- The fields of a chain header word (30_encoding.md R117). -/
theorem headerWord_fields (count : BitVec 8) (next : Addr) :
    headerCount (headerWord count next) = count ∧ headerNext (headerWord count next) = next :=
  ⟨extract_append_top _ _, extract_append_low _ _⟩

/-- A header word is its count and its next field. -/
theorem header_append (hdr : Word) :
    headerWord (headerCount hdr) (headerNext hdr) = hdr := opcode_append_param hdr

end Sys2Proof
end

