-- ==== Sys2Proof/Laws/Flags.lean ====
section
/-! SUPPORT. The status fields: a field write changes the field's bits and no other. -/

namespace Sys2Proof.Machine

theorem fieldOnes_getLsbD (f : StatField) (j : Nat) :
    (fieldOnes f).getLsbD j = decide (j < fieldWidth f) := by
  by_cases hj : j < 32
  · have : ∀ g : StatField, ∀ k : Fin 32,
        (fieldOnes g).getLsbD k.val = decide (k.val < fieldWidth g) := by
      intro g; cases g <;> decide
    exact this f ⟨j, hj⟩
  · rw [BitVec.getLsbD_of_ge _ _ (by omega)]
    have : fieldWidth f ≤ 3 := by cases f <;> decide
    simp; omega

/-- A field write, bit by bit. -/
theorem putField_getLsbD (l : StatLayout) (f : StatField) (v st : Word) {i : Nat} (hi : i < 32) :
    (putField l f v st).getLsbD i
      = if fieldLo l f ≤ i ∧ i < fieldLo l f + fieldWidth f then v.getLsbD (i - fieldLo l f)
        else st.getLsbD i := by
  simp only [putField, statOr, statAndNot, fieldMask, BitVec.getLsbD_or, BitVec.getLsbD_and,
    BitVec.getLsbD_not, BitVec.getLsbD_shiftLeft, fieldOnes_getLsbD, hi, decide_true,
    Bool.true_and]
  by_cases h1 : i < fieldLo l f
  · have : ¬ fieldLo l f ≤ i := by omega
    simp [h1, this]
  · by_cases h2 : i < fieldLo l f + fieldWidth f
    · have h3 : i - fieldLo l f < fieldWidth f := by omega
      have h4 : fieldLo l f ≤ i := by omega
      simp [h1, h2, h3, h4]
    · have h3 : ¬ i - fieldLo l f < fieldWidth f := by omega
      simp [h1, h2, h3]

/-- Reading a field, bit by bit. -/
theorem getField_getLsbD (l : StatLayout) (f : StatField) (st : Word) (i : Nat) :
    (getField l f st).getLsbD i
      = (decide (i < fieldWidth f) && st.getLsbD (fieldLo l f + i)) := by
  simp only [getField, BitVec.getLsbD_and, BitVec.getLsbD_ushiftRight, fieldOnes_getLsbD]
  rw [Bool.and_comm]

/-- The list of fields leaves none out. -/
theorem mem_statFields (f : StatField) : f ∈ commandFields ++ drawingFields := by
  cases f <;> decide

/-- What `layoutOk` says: every field inside the word, on its own side of bit 16, and no two fields on
the same bit. -/
theorem layoutOk_inside {l : StatLayout} (h : layoutOk l = true) (f : StatField) :
    fieldLo l f + fieldWidth f ≤ 32 := by
  simp only [layoutOk, Bool.and_eq_true, List.all_eq_true, decide_eq_true_eq] at h
  rcases List.mem_append.1 (mem_statFields f) with hf | hf
  · exact (h.1.1.2 f hf).2
  · exact (h.1.2 f hf).trans (by decide)

theorem layoutOk_command {l : StatLayout} (h : layoutOk l = true) {f : StatField}
    (hf : f ∈ commandFields) : 16 ≤ fieldLo l f := by
  simp only [layoutOk, Bool.and_eq_true, List.all_eq_true, decide_eq_true_eq] at h
  exact (h.1.1.2 f hf).1

theorem layoutOk_reset {l : StatLayout} (h : layoutOk l = true) (f : StatField) :
    getField l f Config.statInit = fieldReset f := by
  simp only [layoutOk, Bool.and_eq_true, List.all_eq_true, beq_iff_eq] at h
  exact h.2 f (mem_statFields f)

theorem layoutOk_disjoint {l : StatLayout} (h : layoutOk l = true) {f g : StatField} (hfg : f ≠ g) :
    fieldLo l f + fieldWidth f ≤ fieldLo l g ∨ fieldLo l g + fieldWidth g ≤ fieldLo l f := by
  simp only [layoutOk, disjointFields, Bool.and_eq_true, decide_eq_true_eq] at h
  have hs : Std.Symm fun f g : StatField =>
      fieldLo l f + fieldWidth f ≤ fieldLo l g ∨ fieldLo l g + fieldWidth g ≤ fieldLo l f :=
    ⟨fun _ _ => Or.symm⟩
  exact h.1.1.1.forall (mem_statFields f) (mem_statFields g) hfg

/-- A field just written reads as the bits written. -/
theorem getField_putField_same {l : StatLayout} (hl : layoutOk l = true) (f : StatField)
    (v st : Word) : getField l f (putField l f v st) = v &&& fieldOnes f := by
  apply BitVec.eq_of_getLsbD_eq
  intro i hi
  rw [getField_getLsbD l f _ i]
  simp only [BitVec.getLsbD_and, fieldOnes_getLsbD]
  by_cases hw : i < fieldWidth f
  · have hlo := layoutOk_inside hl f
    rw [putField_getLsbD l f v st (by omega)]
    simp [hw]
  · simp [hw]

/-- Writing one field leaves every other field as it was. -/
theorem getField_putField_ne {l : StatLayout} (hl : layoutOk l = true) {f g : StatField} (h : f ≠ g)
    (v st : Word) : getField l f (putField l g v st) = getField l f st := by
  have hd := layoutOk_disjoint hl h
  apply BitVec.eq_of_getLsbD_eq
  intro i hi
  rw [getField_getLsbD l f _ i, getField_getLsbD l f _ i]
  by_cases hw : i < fieldWidth f
  · have hlo := layoutOk_inside hl f
    rw [putField_getLsbD l g v st (by omega)]
    have : ¬ (fieldLo l g ≤ fieldLo l f + i ∧ fieldLo l f + i < fieldLo l g + fieldWidth g) := by
      omega
    simp [this]
  · simp [hw]

/-- Writing a command's field leaves the back end's bits 15:0 (40_status_port.md R138). -/
theorem putField_low {l : StatLayout} (hl : layoutOk l = true) {f : StatField}
    (hf : f ∈ commandFields) (v st : Word) {i : Nat} (hi : i < 16) :
    (putField l f v st).getLsbD i = st.getLsbD i := by
  have := layoutOk_command hl hf
  rw [putField_getLsbD l f v st (by omega), if_neg (by omega)]

end Sys2Proof.Machine
end

