-- ==== Sys2Proof/Laws/Timer.lean ====
section
/-! SUPPORT. The frame timer: what each of its procedures can write, how far its threshold and its
counters can go, and that each keeps the invariant. -/

namespace Sys2Proof.Machine

/-! ## Rates -/

/-- The constraints of accepted parameters, one by one. -/
theorem paramsOk_iff (p : Params) :
    paramsOk p = true ↔
      1000 ≤ p.ticksPerSecond ∧ 0 < p.fixedFps ∧ p.fixedFps ≤ (p.ticksPerSecond : Rat)
        ∧ 0 < p.fpsNtsc ∧ 0 < p.fpsNtscLace ∧ 0 < p.fpsPal ∧ 0 < p.fpsPalLace
        ∧ 0 < p.fpsNtscFix ∧ 0 < p.fpsPalFix ∧ p.posYBits ≤ 14 ∧ codesOk p = true
        ∧ layoutOk p.statLayout = true := by
  simp only [paramsOk, Bool.and_eq_true, decide_eq_true_eq]
  tauto

/-- Every rate the selection can choose is positive (44_frame_timer.md R242). -/
theorem rateOf_pos {p : Params} (h : paramsOk p = true) (l : Localization) (i : Bool) :
    0 < rateOf p l i := by
  obtain ⟨-, h1, -, h2, h3, h4, h5, h6, h7, -⟩ := (paramsOk_iff p).1 h
  unfold rateOf
  split
  · exact h1
  · split
    · cases l <;> assumption
    · cases l <;> cases i <;> simp <;> assumption

/-- A free rate is positive (44_frame_timer.md R255). -/
theorem freeRate_pos (n : Nat) : 0 < Config.freeRate n := by
  unfold Config.freeRate
  positivity

/-- A measured rate is positive. -/
theorem measuredRate_pos {p : Params} (h : paramsOk p = true) (dur free : Nat) :
    0 < measuredRate p dur free := by
  obtain ⟨h0, -⟩ := (paramsOk_iff p).1 h
  unfold measuredRate
  split
  · norm_num
  · split
    · exact freeRate_pos _
    · have h1 : (0 : Rat) < p.ticksPerSecond := by exact_mod_cast (by omega : 0 < p.ticksPerSecond)
      have h2 : (0 : Rat) < dur := by exact_mod_cast (by omega : 0 < dur)
      exact div_pos h1 h2

/-- A number of frames to skip is at most 4 (44_frame_timer.md R257). -/
theorem skipCount_le (target measured : Rat) : skipCount target measured ≤ 4 := by
  unfold skipCount
  omega

theorem rateChanged_frame (s : State) :
    rateChanged s = { s with
      ft := { s.ft with
        targetFps := rateOf s.cfg s.geo.localization s.geo.interlacing
        targetDuration := durationOf s.cfg (rateOf s.cfg s.geo.localization s.geo.interlacing)
        laceCount := 0 } } := rfl

theorem rateChanged_keeps_inv {s : State} (h : Inv s) : Inv (rateChanged s) :=
  { h with
    rates := fun hl =>
      { h.rates hl with target := rateOf_pos (h.params hl) _ _, duration := rfl } }

/-! ## What the procedures can write -/

/-- The eco sleep writes the events only. -/
theorem ecoSleep_frame (rem : Nat) (s : State) :
    ecoSleep rem s = { s with events := (ecoSleep rem s).events } := by
  unfold ecoSleep; split <;> rfl

/-- A call of `limit_frame` (44_frame_timer.md R250): the clock does not run back, the new threshold
is at or above the reading taken at the start, and it moves by one frame or up to that reading. -/
theorem limitFrame_spec (s : State) :
    s.clock.now ≤ (limitFrame s).clock.now
      ∧ (readClock s).1 ≤ (limitFrame s).ft.nextUpdate
      ∧ ((limitFrame s).ft.nextUpdate = s.ft.nextUpdate + s.ft.targetDuration
        ∨ (limitFrame s).ft.nextUpdate = (readClock s).1)
      ∧ limitFrame s = { s with
          ft := { s.ft with nextUpdate := (limitFrame s).ft.nextUpdate }
          clock := (limitFrame s).clock
          freeCount := (limitFrame s).freeCount
          events := (limitFrame s).events } := by
  obtain ⟨h1, h2, h3⟩ := readClock_spec s
  have hft : (readClock s).2.ft = s.ft := by rw [h3]
  unfold limitFrame
  simp only [hft]
  split
  · rename_i hle
    refine ⟨?_, ?_, ?_, ?_⟩
    · simp only; omega
    · simp only [lateThreshold]; omega
    · simp only [lateThreshold]; omega
    · simp only; rw [h3]
  · rename_i hlt
    obtain ⟨g1, g2, g3⟩ := holdClock_spec s.ft.nextUpdate
      (ecoSleep (s.ft.nextUpdate - (readClock s).1) (readClock s).2)
    have he := ecoSleep_frame (s.ft.nextUpdate - (readClock s).1) (readClock s).2
    have hk : (ecoSleep (s.ft.nextUpdate - (readClock s).1) (readClock s).2).clock
        = (readClock s).2.clock := by rw [he]
    have hf : (holdClock s.ft.nextUpdate
        (ecoSleep (s.ft.nextUpdate - (readClock s).1) (readClock s).2)).ft = s.ft := by
      rw [g3, he]; exact hft
    rw [hk] at g2
    refine ⟨?_, ?_, ?_, ?_⟩
    · simp only; omega
    · simp only [hf]; omega
    · exact .inl (by simp only [hf])
    · simp only [hf]; rw [g3, he, h3]

/-- What `measure_fps` writes (44_frame_timer.md R255 to R257). -/
theorem measureFps_spec (s : State) :
    s.clock.now ≤ (measureFps s).clock.now
      ∧ (measureFps s).ft.lastMeasure = (measureFps s).clock.now
      ∧ ((measureFps s).ft.lastDisplay = s.ft.lastDisplay
        ∨ (measureFps s).ft.lastDisplay = (measureFps s).clock.now)
      ∧ (∃ dur free, (measureFps s).ft.measuredFps = measuredRate s.cfg dur free)
      ∧ ((measureFps s).ft.displayedFps = s.ft.displayedFps
        ∨ (measureFps s).ft.displayedFps = (measureFps s).ft.measuredFps)
      ∧ (measureFps s).ft.framesToSkip ≤ 4
      ∧ measureFps s = { s with
          ft := { s.ft with
            lastMeasure := (measureFps s).ft.lastMeasure
            measuredFps := (measureFps s).ft.measuredFps
            displayedFps := (measureFps s).ft.displayedFps
            lastDisplay := (measureFps s).ft.lastDisplay
            framesToSkip := (measureFps s).ft.framesToSkip }
          clock := (measureFps s).clock
          freeCount := (measureFps s).freeCount } := by
  obtain ⟨h1, h2, h3⟩ := readClock_spec s
  have hft : (readClock s).2.ft = s.ft := by rw [h3]
  have hcfg : (readClock s).2.cfg = s.cfg := by rw [h3]
  have hskip : ∀ (b : Bool) (x y : Rat), (if b then skipCount x y else 0) ≤ 4 := by
    intro b x y; cases b <;> simp [skipCount_le]
  unfold measureFps computeSkip refreshDisplay
  simp only
  split
  · refine ⟨?_, ?_, ?_, ⟨_, _, by simp only [hcfg]; rfl⟩, .inr rfl, hskip _ _ _, ?_⟩
    · simp only; omega
    · exact h2.symm
    · exact .inr h2.symm
    · simp only; rw [h3]
  · refine ⟨?_, ?_, ?_, ⟨_, _, by simp only [hcfg]; rfl⟩, .inl ?_, hskip _ _ _, ?_⟩
    · simp only; omega
    · exact h2.symm
    · left; simp only [hft]
    · simp only [hft]
    · simp only; rw [h3]

/-- What `check` writes (44_frame_timer.md R258): no port field. -/
theorem checkLimit_spec (s : State) :
    s.clock.now ≤ (checkLimit s).clock.now
      ∧ checkLimit s = { s with
          ft := { s.ft with
            nextUpdate := (checkLimit s).ft.nextUpdate, laceCount := (checkLimit s).ft.laceCount }
          clock := (checkLimit s).clock
          freeCount := (checkLimit s).freeCount
          events := (checkLimit s).events } := by
  unfold checkLimit
  split
  · simp only
    split
    · obtain ⟨h1, -, -, h4⟩ :=
        limitFrame_spec { s with ft := { s.ft with laceCount := s.ft.laceCount + 1 } }
      exact ⟨h1, by rw [h4]⟩
    · exact ⟨le_refl _, rfl⟩
  · split
    · obtain ⟨h1, -, -, h4⟩ := limitFrame_spec s
      exact ⟨h1, by rw [h4]⟩
    · exact ⟨le_refl _, rfl⟩

/-- What `present_or_skip` writes (44_frame_timer.md R263). -/
theorem presentOrSkip_frame (s : State) :
    presentOrSkip s = { s with
      ft := { s.ft with skipLeft := (presentOrSkip s).ft.skipLeft }
      vsyncReady := false
      events := (presentOrSkip s).events } := by
  unfold presentOrSkip
  split
  · split <;> rfl
  · rename_i h
    have : s.vsyncReady = false := by simpa using h
    rw [← this]

/-- The skip counter of `present_or_skip` stays at or below the two counters it comes from. -/
theorem presentOrSkip_skipLeft (s : State) :
    (presentOrSkip s).ft.skipLeft ≤ max s.ft.skipLeft s.ft.framesToSkip := by
  unfold presentOrSkip
  split
  · split
    · simp only; omega
    · show (if s.cfg.frameSkipEnabled then s.ft.framesToSkip else s.ft.skipLeft) ≤ _
      cases s.cfg.frameSkipEnabled <;> simp
  · omega

/-! ## The invariant -/

theorem checkLimit_keeps_inv {s : State} (h : Inv s) : Inv (checkLimit s) := by
  obtain ⟨h1, h2⟩ := checkLimit_spec s
  rw [h2]
  exact { h with
    rates := fun hl => { h.rates hl with }
    measureOrder := fun hl => le_trans (h.measureOrder hl) h1
    displayOrder := fun hl => le_trans (h.displayOrder hl) h1 }

theorem measureFps_keeps_inv {s : State} (h : Inv s) : Inv (measureFps s) := by
  obtain ⟨h1, h2, h3, ⟨dur, free, h4⟩, h5, h6, h7⟩ := measureFps_spec s
  rw [h7]
  exact { h with
    framesLe := h6
    rates := fun hl =>
      { h.rates hl with
        measured := by simp only [h4]; exact measuredRate_pos (h.params hl) _ _
        displayed := by
          simp only
          rcases h5 with h5 | h5
          · rw [h5]; exact (h.rates hl).displayed
          · rw [h5, h4]; exact measuredRate_pos (h.params hl) _ _ }
    measureOrder := fun _ => by simp only [h2]; exact le_refl _
    displayOrder := fun hl => by
      simp only
      rcases h3 with h3 | h3
      · rw [h3]; exact le_trans (h.displayOrder hl) h1
      · rw [h3] }

theorem checkFrame_keeps_inv {s : State} (h : Inv s) : Inv (checkFrame s) := by
  unfold checkFrame
  simp only
  split
  · exact measureFps_keeps_inv (checkLimit_keeps_inv h)
  · exact checkLimit_keeps_inv h

theorem oddEvenAtVsync_keeps_inv {s : State} (h : Inv s) : Inv (oddEvenAtVsync s) := by
  unfold oddEvenAtVsync
  split
  · exact h
  · exact h.of_same rfl

theorem presentOrSkip_keeps_inv {s : State} (h : Inv s) : Inv (presentOrSkip s) := by
  have hs := presentOrSkip_skipLeft s
  rw [presentOrSkip_frame s]
  have h1 := h.framesLe
  have h2 := h.skipLe
  exact { h with
    skipLe := by simp only; omega
    rates := fun hl => { h.rates hl with } }

end Sys2Proof.Machine
end

