-- ==== Sys2Proof/Laws/StatusPort.lean ====
section
/-! SUPPORT. The status port: what each effect can write, and that each keeps the invariant. -/

namespace Sys2Proof.Machine

/-! ## What the effects can write -/

theorem fakeBusy_frame (s : State) :
    fakeBusy s = { s with stat := (fakeBusy s).stat, busy := s.busy - 1 } := by
  unfold fakeBusy
  split
  · rename_i h; rw [h, Nat.zero_sub, ← h]
  · rfl

theorem oddEvenRead_frame (s : State) :
    oddEvenRead s = { s with stat := (oddEvenRead s).stat, rdcnt := (oddEvenRead s).rdcnt } := by
  unfold oddEvenRead
  split
  · split <;> rfl
  · rfl

theorem resetEffect_frame (s : State) :
    resetEffect s = { s with
      inMode := .normal, outMode := .normal, cin := Cursor.idle, cout := Cursor.idle
      geo := resetGeometry s.cfg, stat := Config.statInit, info := RawInfo.zero } := rfl

theorem displayEffect_frame (off : BitVec 1) (s : State) :
    displayEffect off s = { s with
      stat := putField s.cfg.statLayout .displayDisabled (bitWord (bitSet off)) s.stat
      events := (displayEffect off s).events } := by
  unfold displayEffect
  simp only
  split <;> rfl

theorem modeEffect_frame (m : BitVec 2) (s : State) :
    modeEffect m s = { s with
      stat := putField s.cfg.statLayout .dmaDirection (m.setWidth 32) s.stat
      inMode := if m = 3 then .vramTransfer else s.inMode
      outMode := if m = 3 ∨ m = 2 then .vramTransfer else s.outMode } := by
  unfold modeEffect
  by_cases h3 : m = 3
  · simp only [h3, if_true, true_or]; rfl
  · by_cases h2 : m = 2
    · simp only [h2, if_true, or_true]; rfl
    · simp only [h2, h3, if_false, or_false]; rfl

theorem posEffect_frame (y x : Nat) (s : State) :
    posEffect y x s = { s with
      geo := { s.geo with
        prev := { s.geo.prev with pos := s.geo.pos, dispEnd := s.geo.dispEnd }
        pos := ⟨min x 1023, min y (s.cfg.vramRows - 1)⟩
        dispEnd := ⟨(min x 1023 : Nat) + s.geo.size.x,
          (min y (s.cfg.vramRows - 1) : Nat) + s.geo.size.y⟩ }
      vsyncReady := true } := rfl

theorem vrangeEffect_frame (bottom top : Nat) (s : State) :
    vrangeEffect bottom top s = { s with
      geo := (vrangeEffect bottom top s).geo, events := (vrangeEffect bottom top s).events } := by
  unfold vrangeEffect
  split <;> rfl

theorem infoEffect_frame (preset : BitVec 3) (lace rgb24 pal dbl : BitVec 1) (s : State) :
    infoEffect preset lace rgb24 pal dbl s = { s with
      geo := infoGeometry preset lace rgb24 pal dbl s.cfg s.geo
      stat := infoStat s.cfg.statLayout preset lace rgb24 pal dbl s.stat
      ft := (infoEffect preset lace rgb24 pal dbl s).ft } := by
  unfold infoEffect
  simp only
  split <;> rfl

/-- `t` is `s` but for what a status-port command may write beside the control table
(40_status_port.md R141 to R153). -/
def CommandFrame (s t : State) : Prop :=
  t = { s with
    stat := t.stat, gdata := t.gdata, info := t.info, inMode := t.inMode, outMode := t.outMode
    cin := t.cin, cout := t.cout, vsyncReady := t.vsyncReady, geo := t.geo, ft := t.ft
    events := t.events }

theorem displayEffect_commandFrame (off : BitVec 1) (s : State) :
    CommandFrame s (displayEffect off s) := by
  unfold displayEffect; simp only; split <;> rfl

theorem modeEffect_commandFrame (m : BitVec 2) (s : State) : CommandFrame s (modeEffect m s) := by
  unfold modeEffect; simp only; split
  · rfl
  · split <;> rfl

theorem vrangeEffect_commandFrame (bottom top : Nat) (s : State) :
    CommandFrame s (vrangeEffect bottom top s) := by
  unfold vrangeEffect; split <;> rfl

theorem infoEffect_commandFrame (preset : BitVec 3) (lace rgb24 pal dbl : BitVec 1) (s : State) :
    CommandFrame s (infoEffect preset lace rgb24 pal dbl s) := by
  unfold infoEffect; simp only; split <;> rfl

theorem commandEffect_frame (i : Instr) (s : State) : CommandFrame s (commandEffect i s) := by
  cases i with
  | wsDisplay _ off => exact displayEffect_commandFrame off s
  | wsMode _ m => exact modeEffect_commandFrame m s
  | wsVrange _ b t => exact vrangeEffect_commandFrame _ _ s
  | wsInfo _ _ _ _ _ _ _ _ => exact infoEffect_commandFrame _ _ _ _ _ s
  | _ => rfl

/-! ## The invariant -/

theorem storeCtl_keeps_inv {s : State} (h : Inv s) (w : Word) : Inv (storeCtl w s) := h.of_same rfl

theorem resetGeometry_ok (p : Params) : GeometryOk p (resetGeometry p) where
  width := rfl
  height := by simp [resetGeometry]
  multiplier := .inl rfl
  posX := by simp [resetGeometry]
  posY := by have := vramRows_pos p; simp only [resetGeometry]; omega
  left := by simp [resetGeometry]
  right := by simp [resetGeometry]
  top := by simp [resetGeometry]
  bottom := by simp [resetGeometry]

theorem fakeBusy_keeps_inv {s : State} (h : Inv s) : Inv (fakeBusy s) := by
  rw [fakeBusy_frame]
  have := h.busyLe
  exact { h with busyLe := by simp only; omega }

theorem oddEvenRead_keeps_inv {s : State} (h : Inv s) : Inv (oddEvenRead s) := by
  have h1 := h.rdcntLe
  unfold oddEvenRead
  split
  · split
    · exact { h with rdcntLe := by simp [setStat] }
    · exact { h with rdcntLe := by simp only; omega }
  · exact h

theorem resetEffect_keeps_inv {s : State} (h : Inv s) : Inv (resetEffect s) :=
  { h with
    cinOk := .inl rfl
    coutOk := .inl rfl
    cinMode := fun e => absurd rfl e
    coutMode := fun e => absurd rfl e
    geoOk := resetGeometry_ok _ }

theorem displayEffect_keeps_inv {s : State} (h : Inv s) (off : BitVec 1) :
    Inv (displayEffect off s) := by
  rw [displayEffect_frame]; exact h.of_same rfl

theorem modeEffect_keeps_inv {s : State} (h : Inv s) (m : BitVec 2) : Inv (modeEffect m s) := by
  rw [modeEffect_frame]
  exact { h with
    cinMode := fun e => by simp only [h.cinMode e, ite_self]
    coutMode := fun e => by simp only [h.coutMode e, ite_self] }

theorem posEffect_keeps_inv {s : State} (h : Inv s) (y x : Nat) : Inv (posEffect y x s) := by
  rw [posEffect_frame]
  have hr := vramRows_pos s.cfg
  exact { h with
    geoOk := { h.geoOk with
      posX := by simp only; omega
      posY := by simp only; omega } }

theorem hrangeEffect_keeps_inv {s : State} (h : Inv s) {right left : Nat} (hr : right ≤ 4095)
    (hl : left ≤ 4095) : Inv (hrangeEffect right left s) :=
  h.set_geo { h.geoOk with left := hl, right := hr }

theorem vrangeEffect_keeps_inv {s : State} (h : Inv s) {bottom top : Nat} (hb : bottom ≤ 1023)
    (ht : top ≤ 1023) : Inv (vrangeEffect bottom top s) := by
  unfold vrangeEffect
  split
  · exact h
  · have h1 := h.set_geo (g := { s.geo with
      prev := { s.geo.prev with
        range := { s.geo.prev.range with top := s.geo.range.top, bottom := s.geo.range.bottom }
        size := s.geo.size }
      range := { s.geo.range with top := top, bottom := bottom }
      size := { s.geo.size with y := heightOf s.geo.multiplier top bottom } })
      { h.geoOk with top := ht, bottom := hb, height := rfl }
    exact h1.of_same rfl

theorem infoEffect_keeps_inv {s : State} (h : Inv s) (preset : BitVec 3)
    (lace rgb24 pal dbl : BitVec 1) : Inv (infoEffect preset lace rgb24 pal dbl s) := by
  have h1 : Inv { s with
      geo := infoGeometry preset lace rgb24 pal dbl s.cfg s.geo
      stat := infoStat s.cfg.statLayout preset lace rgb24 pal dbl s.stat } := by
    have hm : multiplierOf dbl = 1 ∨ multiplierOf dbl = 2 := by
      unfold multiplierOf; split <;> simp
    have h2 := h.set_geo (g := infoGeometry preset lace rgb24 pal dbl s.cfg s.geo)
      { h.geoOk with width := rfl, height := rfl, multiplier := hm }
    exact h2.of_same rfl
  unfold infoEffect
  simp only
  split
  · exact rateChanged_keeps_inv h1
  · exact h1

theorem commandEffect_keeps_inv {s : State} (h : Inv s) (i : Instr) :
    Inv (commandEffect i s) := by
  cases i with
  | wsReset _ => exact resetEffect_keeps_inv h
  | wsDisplay _ off => exact displayEffect_keeps_inv h off
  | wsMode _ m => exact modeEffect_keeps_inv h m
  | wsPos y x => exact posEffect_keeps_inv h _ _
  | wsHrange r l =>
    have := r.isLt; have := l.isLt
    exact hrangeEffect_keeps_inv h (by omega) (by omega)
  | wsVrange _ b t =>
    have := b.isLt; have := t.isLt
    exact vrangeEffect_keeps_inv h (by omega) (by omega)
  | wsInfo _ _ _ _ _ _ _ _ => exact infoEffect_keeps_inv h _ _ _ _ _
  | _ => exact h.of_same rfl

theorem writeStatus_keeps_inv {s : State} (h : Inv s) (w : Word) : Inv (writeStatus w s) :=
  commandEffect_keeps_inv (storeCtl_keeps_inv h w) _

end Sys2Proof.Machine
end

