-- ==== Sys2Proof/Laws/Freeze.lean ====
section
/-! SUPPORT. Save state and lifecycle: what the image holds after a GET, what each transaction can
write, and that each keeps the invariant. -/

namespace Sys2Proof.Machine

/-! ## The image -/

theorem wordBytes_length (w : Word) : (wordBytes w).length = 4 := rfl

theorem flatMap_wordBytes_length (ws : List Word) : (ws.flatMap wordBytes).length = 4 * ws.length := by
  induction ws with
  | nil => rfl
  | cons w ws ih => simp [ih, wordBytes_length]; omega

/-- The header fields of an image take the bytes from 4 to the start of its `vram` field. -/
theorem headerFields_inside (s : State) : ∀ c ∈ headerFields s, 4 ≤ c.1 ∧ c.1 < 4 + 1028 := by
  intro c hc
  have h := mem_bytesAt hc
  simp only [List.length_append, wordBytes_length, flatMap_wordBytes_length, Vector.length_toList]
    at h
  omega

/-- The `vram` field takes its own bytes. -/
theorem vramField_inside (m : Memory) (n : Nat) :
    ∀ c ∈ shiftUp vramOffset (takeWindow m 0 n), vramOffset ≤ c.1 ∧ c.1 < vramOffset + n := by
  intro c hc
  have h := mem_shiftUp hc
  have h2 := (mem_takeWindow h.2).1
  omega

/-- A GET writes the image's bytes and nothing else. -/
theorem freezeGet_frame (s : State) :
    freezeGet s = { s with img := { s.img with bytes := (freezeGet s).img.bytes } } := rfl

theorem freezeGet_img_wf {s : State} (hv : memWf s.vram) (hi : memWf s.img.bytes) :
    memWf (freezeGet s).img.bytes :=
  spliceMem_wf (spliceMem_wf hi (bytesAt_wf _ _) (headerFields_inside s))
    (shiftUp_wf (takeWindow_wf hv _ _) _) (vramField_inside _ _)

theorem freezeGet_img_below {s : State} (hi : memBelow s.img.size s.img.bytes)
    (hsize : imageBytes s.cfg ≤ s.img.size) : memBelow s.img.size (freezeGet s).img.bytes := by
  intro c hc
  unfold imageBytes at hsize
  have hoff : vramOffset = 1032 := rfl
  rcases mem_spliceMem hc with ⟨hc, -⟩ | hc
  · rcases mem_spliceMem hc with ⟨hc, -⟩ | hc
    · exact hi c hc
    · have := headerFields_inside s c hc; omega
  · have := vramField_inside _ _ c hc; omega

/-- The image after a GET, byte by byte: the header fields, the `vram` field, and every other byte as
it was (43_freeze_lifecycle.md R213). -/
theorem freezeGet_readByte (s : State) (a : Nat) :
    readByte (freezeGet s).img.bytes a
      = if vramOffset ≤ a ∧ a < vramOffset + s.cfg.vramBytes then readByte s.vram (a - vramOffset)
        else if 4 ≤ a ∧ a < 4 + 1028 then readByte (headerFields s) a
        else readByte s.img.bytes a := by
  unfold freezeGet
  simp only
  rw [readByte_spliceMem (vramField_inside _ _), readByte_spliceMem (headerFields_inside s)]
  split
  · rename_i h
    rw [readByte_shiftUp, if_pos h.1, readByte_takeWindow, if_pos (by omega), Nat.add_zero]
  · rfl

/-! ## The restore and the replay -/

theorem restoreImage_frame (s : State) :
    restoreImage s = { s with
      stat := readWord s.img.bytes 4
      ctl := imageCtl s.img
      vram := takeWindow s.img.bytes vramOffset s.cfg.vramBytes } := rfl

theorem restoreImage_keeps_inv {s : State} (h : Inv s) : Inv (restoreImage s) :=
  { h with
    vramWf := takeWindow_wf h.imgWf _ _
    vramBelow := takeWindow_below _ _ _ }

/-- A property that every status-port write keeps, a replay keeps. -/
theorem replayCommands_keeps {P : State → Prop} (hP : ∀ w s, P s → P (writeStatus w s)) :
    ∀ (ks : List (BitVec 8)) {s : State}, P s → P (replayCommands ks s)
  | [], _, hs => hs
  | _ :: ks, _, hs => replayCommands_keeps hP ks (hP _ _ hs)

theorem freezeSet_keeps_inv {s : State} (h : Inv s) : Inv (freezeSet s) :=
  replayCommands_keeps (P := Inv) (fun w _ hs => writeStatus_keeps_inv hs w) _
    (restoreImage_keeps_inv h)

/-- A SET writes what a restore and status-port commands write (43_freeze_lifecycle.md R218). -/
theorem freezeSet_frame (s : State) :
    freezeSet s = { s with
      stat := (freezeSet s).stat, ctl := (freezeSet s).ctl, gdata := (freezeSet s).gdata
      info := (freezeSet s).info, inMode := (freezeSet s).inMode
      outMode := (freezeSet s).outMode, cin := (freezeSet s).cin, cout := (freezeSet s).cout
      vram := takeWindow s.img.bytes vramOffset s.cfg.vramBytes
      vsyncReady := (freezeSet s).vsyncReady, geo := (freezeSet s).geo, ft := (freezeSet s).ft
      events := (freezeSet s).events } := by
  refine replayCommands_keeps (P := fun u => u = { s with
      stat := u.stat, ctl := u.ctl, gdata := u.gdata, info := u.info, inMode := u.inMode
      outMode := u.outMode, cin := u.cin, cout := u.cout
      vram := takeWindow s.img.bytes vramOffset s.cfg.vramBytes
      vsyncReady := u.vsyncReady, geo := u.geo, ft := u.ft, events := u.events })
    (fun w u hu => ?_) _ rfl
  have h : CommandFrame (storeCtl w u) (writeStatus w u) := commandEffect_frame _ _
  unfold CommandFrame at h
  rw [h, hu]
  rfl

/-! ## The transactions -/

theorem needImage_eq_next {n : Nat} {s t : State} {k : State → Res State} :
    needImage n s k = .next t ↔ n ≤ s.img.size ∧ k s = .next t := by
  unfold needImage; split <;> simp_all

theorem freezeInfoMode_keeps_inv {s t : State} (h : Inv s) (ht : freezeInfoMode s = .next t) :
    Inv t := by
  obtain ⟨-, ht⟩ := needImage_eq_next.1 ht
  simp only [freezeInfo] at ht
  split at ht
  · rename_i hle
    simp only [Host.Outcome.next.injEq] at ht; subst ht
    exact { h with slotLe := hle }
  · simp only [Host.Outcome.next.injEq] at ht; subst ht
    exact h.of_same rfl

theorem versionedMode_keeps_inv {work : State → State} {s t : State} (h : Inv s)
    (hw : imageBytes s.cfg ≤ s.img.size → Inv (work s)) (ht : versionedMode work s = .next t) :
    Inv t := by
  obtain ⟨hs, ht⟩ := needImage_eq_next.1 ht
  split at ht
  · simp only [Host.Outcome.next.injEq] at ht; subst ht
    exact (hw hs).of_same rfl
  · simp only [Host.Outcome.next.injEq] at ht; subst ht
    exact h.of_same rfl

theorem freezeGet_keeps_inv {s : State} (h : Inv s) (hs : imageBytes s.cfg ≤ s.img.size) :
    Inv (freezeGet s) :=
  { h with
    imgWf := freezeGet_img_wf h.vramWf h.imgWf
    imgBelow := freezeGet_img_below h.imgBelow hs }

theorem freezeByMode_keeps_inv {mode : Word} {s t : State} (h : Inv s)
    (ht : freezeByMode mode s = .next t) : Inv t := by
  unfold freezeByMode at ht
  split at ht
  · exact freezeInfoMode_keeps_inv h ht
  · split at ht
    · simp only [unknownMode, Host.Outcome.next.injEq] at ht; subst ht; exact h.of_same rfl
    · split at ht
      · exact versionedMode_keeps_inv h (freezeGet_keeps_inv h) ht
      · exact versionedMode_keeps_inv h (fun _ => freezeSet_keeps_inv h) ht

theorem versionedMode_not_fault (work : State → State) (s : State) (e : Fault) :
    versionedMode work s ≠ .fault e := by
  unfold versionedMode needImage
  simp only
  split
  · split <;> simp
  · simp

theorem freezeInfoMode_not_fault (s : State) (e : Fault) : freezeInfoMode s ≠ .fault e := by
  unfold freezeInfoMode needImage
  split <;> simp

/-- No freeze faults. -/
theorem freezeByMode_not_fault (mode : Word) (s : State) (e : Fault) :
    freezeByMode mode s ≠ .fault e := by
  unfold freezeByMode
  split
  · exact freezeInfoMode_not_fault s e
  · split
    · simp [unknownMode]
    · split
      · exact versionedMode_not_fault _ s e
      · exact versionedMode_not_fault _ s e

/-! ## Lifecycle -/

/-- A cold reset under accepted parameters establishes the invariant's share of the block. -/
theorem initEffect_keeps_inv {s : State} (h : Inv s) (hp : paramsOk s.cfgSource = true) :
    Inv (initEffect s) where
  vramWf := memWf_nil
  vramBelow := by simp [initEffect]
  sysMemWf := h.sysMemWf
  imgWf := h.imgWf
  imgBelow := h.imgBelow
  cinOk := .inl rfl
  coutOk := .inl rfl
  cinMode := fun e => absurd rfl e
  coutMode := fun e => absurd rfl e
  rdcntLe := by simp [initEffect]
  busyLe := by simp [initEffect]
  slotLe := by simp [initEffect]
  framesLe := by simp [initEffect, initTimer]
  skipLe := by simp [initEffect, initTimer]
  geoOk := resetGeometry_ok _
  params := fun _ => hp
  rates := fun _ =>
    { target := rateOf_pos hp _ _
      duration := rfl
      measured := freeRate_pos _
      displayed := freeRate_pos _ }
  measureOrder := fun e => by cases e
  displayOrder := fun e => by cases e

end Sys2Proof.Machine
end

