-- ==== Sys2Proof/Laws/PerInstr.lean ====
section
/-! SUPPORT. Per-instruction families: one lemma a constructor. `Selected`: the packet of a transaction
is a port word, a selector word that the decoder knows, and operand words. -/

namespace Sys2Proof.Laws

/-- Whatever the parameters, the packet is a port word, a selector of the 25, and operand words (log
entry 3). -/
def Selected.Statement (i : Instr) : Prop :=
  ∀ p : Params, ∃ (w sel : Word) (ops : List Word),
    encode p i = w :: sel :: ops ∧ sel.toNat ≤ 24

theorem Selected.wsReset (param : BitVec 24) :
    Selected.Statement (.wsReset param) := fun _ => ⟨_, _, _, rfl, by decide⟩
theorem Selected.wsDisplay (ignored : BitVec 23) (off : BitVec 1) :
    Selected.Statement (.wsDisplay ignored off) := fun _ => ⟨_, _, _, rfl, by decide⟩
theorem Selected.wsMode (ignored : BitVec 22) (m : BitVec 2) :
    Selected.Statement (.wsMode ignored m) := fun _ => ⟨_, _, _, rfl, by decide⟩
theorem Selected.wsPos (yField : BitVec 14) (x : BitVec 10) :
    Selected.Statement (.wsPos yField x) := fun _ => ⟨_, _, _, rfl, by decide⟩
theorem Selected.wsHrange (right : BitVec 12) (left : BitVec 12) :
    Selected.Statement (.wsHrange right left) := fun _ => ⟨_, _, _, rfl, by decide⟩
theorem Selected.wsVrange (ignored : BitVec 4) (bottom : BitVec 10) (top : BitVec 10) :
    Selected.Statement (.wsVrange ignored bottom top) := fun _ => ⟨_, _, _, rfl, by decide⟩
theorem Selected.wsInfo (ignored : BitVec 16) (ignored7 : BitVec 1)
    (presetHi : BitVec 1) (lace : BitVec 1) (rgb24 : BitVec 1) (pal : BitVec 1)
    (dbl : BitVec 1) (presetLo : BitVec 2) :
    Selected.Statement (.wsInfo ignored ignored7 presetHi lace rgb24 pal dbl presetLo) :=
  fun _ => ⟨_, _, _, rfl, by decide⟩
theorem Selected.wsReqTexwin (ignored : BitVec 16) :
    Selected.Statement (.wsReqTexwin ignored) := fun _ => ⟨_, _, _, rfl, by decide⟩
theorem Selected.wsReqDrawstart (ignored : BitVec 16) :
    Selected.Statement (.wsReqDrawstart ignored) := fun _ => ⟨_, _, _, rfl, by decide⟩
theorem Selected.wsReqDrawend (ignored : BitVec 16) :
    Selected.Statement (.wsReqDrawend ignored) := fun _ => ⟨_, _, _, rfl, by decide⟩
theorem Selected.wsReqDrawoffA (ignored : BitVec 16) :
    Selected.Statement (.wsReqDrawoffA ignored) := fun _ => ⟨_, _, _, rfl, by decide⟩
theorem Selected.wsReqDrawoffB (ignored : BitVec 16) :
    Selected.Statement (.wsReqDrawoffB ignored) := fun _ => ⟨_, _, _, rfl, by decide⟩
theorem Selected.wsReqGputype (ignored : BitVec 16) :
    Selected.Statement (.wsReqGputype ignored) := fun _ => ⟨_, _, _, rfl, by decide⟩
theorem Selected.wsReqBiosaddrA (ignored : BitVec 16) :
    Selected.Statement (.wsReqBiosaddrA ignored) := fun _ => ⟨_, _, _, rfl, by decide⟩
theorem Selected.wsReqBiosaddrB (ignored : BitVec 16) :
    Selected.Statement (.wsReqBiosaddrB ignored) := fun _ => ⟨_, _, _, rfl, by decide⟩
theorem Selected.wsReqOther (ignored : BitVec 16) (sub : BitVec 8) :
    Selected.Statement (.wsReqOther ignored sub) := fun _ => ⟨_, _, _, rfl, by decide⟩
theorem Selected.wsRaw01 (param : BitVec 24) :
    Selected.Statement (.wsRaw01 param) := fun _ => ⟨_, _, _, rfl, by decide⟩
theorem Selected.wsRaw02 (param : BitVec 24) :
    Selected.Statement (.wsRaw02 param) := fun _ => ⟨_, _, _, rfl, by decide⟩
theorem Selected.wsRaw (op : BitVec 8) (param : BitVec 24) :
    Selected.Statement (.wsRaw op param) := fun _ => ⟨_, _, _, rfl, by decide⟩
theorem Selected.wdPixels (hi : Half) (lo : Half) :
    Selected.Statement (.wdPixels hi lo) := fun _ => ⟨_, _, _, rfl, by decide⟩
theorem Selected.wdNormal (w : Word) :
    Selected.Statement (.wdNormal w) := fun _ => ⟨_, _, _, rfl, by decide⟩
theorem Selected.rdPixels :
    Selected.Statement .rdPixels := fun _ => ⟨_, _, _, rfl, by decide⟩
theorem Selected.rdReply :
    Selected.Statement .rdReply := fun _ => ⟨_, _, _, rfl, by decide⟩
theorem Selected.chainNode (node : Addr) (count : BitVec 8) (next : Addr) :
    Selected.Statement (.chainNode node count next) := fun _ => ⟨_, _, _, rfl, by decide⟩
theorem Selected.chainEnd (node : Addr) (count : BitVec 8) :
    Selected.Statement (.chainEnd node count) := fun _ => ⟨_, _, _, rfl, by decide⟩
theorem Selected.frzSet :
    Selected.Statement .frzSet := fun _ => ⟨_, _, _, rfl, by decide⟩
theorem Selected.frzGet :
    Selected.Statement .frzGet := fun _ => ⟨_, _, _, rfl, by decide⟩
theorem Selected.frzInfo :
    Selected.Statement .frzInfo := fun _ => ⟨_, _, _, rfl, by decide⟩
theorem Selected.frzOther (mode : Word) :
    Selected.Statement (.frzOther mode) := fun _ => ⟨_, _, _, rfl, by decide⟩
theorem Selected.init (allocOk : Bool) :
    Selected.Statement (.init allocOk) := fun _ => ⟨_, _, _, rfl, by decide⟩
theorem Selected.shutdown :
    Selected.Statement .shutdown := fun _ => ⟨_, _, _, rfl, by decide⟩
theorem Selected.openPort :
    Selected.Statement .openPort := fun _ => ⟨_, _, _, rfl, by decide⟩
theorem Selected.closePort :
    Selected.Statement .closePort := fun _ => ⟨_, _, _, rfl, by decide⟩
theorem Selected.rs :
    Selected.Statement .rs := fun _ => ⟨_, _, _, rfl, by decide⟩
theorem Selected.rd :
    Selected.Statement .rd := fun _ => ⟨_, _, _, rfl, by decide⟩
theorem Selected.rdm (n : Word) :
    Selected.Statement (.rdm n) := fun _ => ⟨_, _, _, rfl, by decide⟩
theorem Selected.wd (w : Word) :
    Selected.Statement (.wd w) := fun _ => ⟨_, _, _, rfl, by decide⟩
theorem Selected.wdm (ws : List Word) :
    Selected.Statement (.wdm ws) := fun _ => ⟨_, _, _, rfl, by decide⟩
theorem Selected.chain (start : Word) :
    Selected.Statement (.chain start) := fun _ => ⟨_, _, _, rfl, by decide⟩
theorem Selected.frz (mode : Word) :
    Selected.Statement (.frz mode) := fun _ => ⟨_, _, _, rfl, by decide⟩
theorem Selected.vsync :
    Selected.Statement .vsync := fun _ => ⟨_, _, _, rfl, by decide⟩
theorem Selected.areaIn (x y w h : Word) :
    Selected.Statement (.areaIn x y w h) := fun _ => ⟨_, _, _, rfl, by decide⟩
theorem Selected.areaOut (x y w h : Word) :
    Selected.Statement (.areaOut x y w h) := fun _ => ⟨_, _, _, rfl, by decide⟩
theorem Selected.kick :
    Selected.Statement .kick := fun _ => ⟨_, _, _, rfl, by decide⟩
theorem Selected.statSet (m : Word) :
    Selected.Statement (.statSet m) := fun _ => ⟨_, _, _, rfl, by decide⟩
theorem Selected.statClr (m : Word) :
    Selected.Statement (.statClr m) := fun _ => ⟨_, _, _, rfl, by decide⟩
theorem Selected.infoStore (e : RawEntry) (v : Word) :
    Selected.Statement (.infoStore e v) := fun _ => ⟨_, _, _, rfl, by decide⟩

end Sys2Proof.Laws
end

