-- ==== Sys2Proof/Tests/Slice0.lean ====
section
/-! SUPPORT. The model's own tests: the well-formedness smoke test, one decoding an instruction with
its words written out from 30_encoding.md, single steps with the results of 95_test_vectors.md (the
vector's name stands in the comment), and a witness for the hypotheses of every obligation. -/

namespace Sys2Proof.Tests

open Sys2Proof Sys2Proof.Machine

/-! ## Helpers -/

/-- The outcome is a next state that passes the check. -/
def nextHas (o : Res State) (check : State → Bool) : Bool :=
  match o with
  | .next t => check t
  | .fault _ => false
  | .refused _ => false

/-- The outcome is this refusal. -/
def refusedAs (o : Res State) (r : Refusal) : Bool :=
  match o with
  | .next _ => false
  | .fault _ => false
  | .refused q => q == r

/-- The start state of the vectors, "after INIT". -/
def start : State := State.reset

/-- The default parameters. -/
def std : Params := Params.defaults false

/-- Parameters of a caller's own (R11): other numbers, one sub-code for both draw-offset requests,
three fields of `STAT` elsewhere. -/
def own : Params :=
  { std with
    ops := { std.ops with toggleDisplay := 0x01, gpuRequest := 0xFF }
    reqs := { std.reqs with texwin := 0x56, drawoffB := 0x05 }
    statLayout := { std.statLayout with oddLines := 24, readyForCommands := 26, idle := 28 } }

/-- An input window armed as `area.in` arms it. -/
def reading (x y w h : Nat) (s : State) : State :=
  { s with cin := ⟨x, y, w, h, w, h, y * 1024 + x⟩, inMode := .vramTransfer }

/-- An output window armed as `area.out` arms it. -/
def writing (x y w h : Nat) (s : State) : State :=
  { s with cout := ⟨x, y, w, h, w, h, y * 1024 + x⟩, outMode := .vramTransfer }

/-- A state with these parameters in force. -/
def under (change : Params → Params) (s : State) : State := { s with cfg := change s.cfg }

/-- System memory with these words, given in rising order of their word index. -/
def memory (words : List (Nat × Word)) : Memory :=
  words.flatMap fun c => bytesAt (4 * c.1) (wordBytes c.2)

/-- A save-state image of the standard size with these bytes. -/
def withImage (bytes : Memory) (s : State) : State := { s with img := ⟨1049608, bytes⟩ }

/-! ## Well-formedness: an ill-formed term for each check -/

theorem test_wf_other_request_is_listed : (Instr.wsReqOther 0 2).wellFormed std = false := by decide
theorem test_wf_other_request : (Instr.wsReqOther 0 9).wellFormed std = true := by decide
theorem test_wf_raw_is_assigned : (Instr.wsRaw 3 0).wellFormed std = false := by decide
theorem test_wf_raw : (Instr.wsRaw 0xFF 0).wellFormed std = true := by decide
theorem test_wf_raw_is_row_one : (Instr.wsRaw 1 0).wellFormed std = false := by decide
theorem test_wf_alias_is_its_twin : (Instr.wsReqDrawoffB 0).wellFormed own = false := by decide
theorem test_wf_alias : (Instr.wsReqDrawoffB 0).wellFormed std = true := by decide
theorem test_wf_bios_alias_is_its_twin :
    (Instr.wsReqBiosaddrB 0).wellFormed { std with reqs := { std.reqs with biosaddrB := 0x08 } }
      = false := by decide
theorem test_wf_raw01_is_assigned : (Instr.wsRaw01 0).wellFormed own = false := by decide
theorem test_wf_raw02_is_assigned :
    (Instr.wsRaw02 0).wellFormed { std with ops := { std.ops with reset := 0x02 } } = false := by
  decide
theorem test_params_default : paramsOk std = true := by decide +kernel
theorem test_params_own : paramsOk own = true := by decide +kernel
theorem test_params_opcode_twice :
    codesOk { std with ops := { std.ops with reset := 0x03 } } = false := by decide
theorem test_params_sub_code_twice :
    codesOk { std with reqs := { std.reqs with drawoffB := 0x08 } } = false := by decide
theorem test_params_field_overlap :
    layoutOk { std.statLayout with pal := 18 } = false := by decide
theorem test_wf_other_mode_is_get : (Instr.frzOther 1).wellFormed std = false := by decide
theorem test_wf_other_mode : (Instr.frzOther 5).wellFormed std = true := by decide
theorem test_wf_node_ends_chain : (Instr.chainNode 0x100 1 0xFFFFFF).wellFormed std = false
      := by decide
theorem test_wf_node : (Instr.chainNode 0x100 1 0xFFFFFE).wellFormed std = true := by decide
theorem test_wf_chunk_too_long :
    (Instr.wdm (List.replicate (2 ^ 32) 0)).wellFormed std = false := by
  simp only [Instr.wellFormed, List.length_replicate, lt_self_iff_false, decide_false]
theorem test_wf_chunk : (Instr.wdm [1, 2]).wellFormed std = true := by decide

/-! ## Decoding: the words of 30_encoding.md sections 2 to 7 -/

theorem test_decode_wsReset : decode std [0x00ABCDEF, 0] = .ok (.wsReset 0xABCDEF) := by decide
theorem test_decode_wsDisplay : decode std [0x03FFFFFE, 0] = .ok (.wsDisplay 0x7FFFFF 0)
      := by decide
theorem test_decode_wsMode : decode std [0x04FFFFFE, 0] = .ok (.wsMode 0x3FFFFF 2) := by decide
theorem test_decode_wsPos : decode std [0x05080C10, 0] = .ok (.wsPos 0x203 16) := by decide
theorem test_decode_wsHrange : decode std [0x06C60260, 0] = .ok (.wsHrange 0xC60 0x260) := by decide
theorem test_decode_wsVrange : decode std [0x07F40010, 0] = .ok (.wsVrange 15 256 16) := by decide
theorem test_decode_wsInfo : decode std [0x08ABCDC9, 0] = .ok (.wsInfo 0xABCD 1 1 0 0 1 0 1)
      := by decide
theorem test_decode_wsReqTexwin : decode std [0x10000002, 0] = .ok (.wsReqTexwin 0) := by decide
theorem test_decode_wsReqDrawstart : decode std [0x10000003, 0] = .ok (.wsReqDrawstart 0)
      := by decide
theorem test_decode_wsReqDrawend : decode std [0x10000004, 0] = .ok (.wsReqDrawend 0) := by decide
theorem test_decode_wsReqDrawoffA : decode std [0x10000005, 0] = .ok (.wsReqDrawoffA 0) := by decide
theorem test_decode_wsReqDrawoffB : decode std [0x10000006, 0] = .ok (.wsReqDrawoffB 0) := by decide
theorem test_decode_wsReqGputype : decode std [0x10ABCD07, 0] = .ok (.wsReqGputype 0xABCD)
      := by decide
theorem test_decode_wsReqBiosaddrA : decode std [0x10000008, 0] = .ok (.wsReqBiosaddrA 0)
      := by decide
theorem test_decode_wsReqBiosaddrB : decode std [0x1000000F, 0] = .ok (.wsReqBiosaddrB 0)
      := by decide
theorem test_decode_wsReqOther : decode std [0x100000FF, 0] = .ok (.wsReqOther 0 0xFF) := by decide
theorem test_decode_wsRaw01 : decode std [0x01000000, 0] = .ok (.wsRaw01 0) := by decide
theorem test_decode_wsRaw02 : decode std [0x02000001, 0] = .ok (.wsRaw02 1) := by decide
theorem test_decode_wsRaw : decode std [0xFF123456, 0] = .ok (.wsRaw 0xFF 0x123456) := by decide

/-! The same words under parameters of a caller's own (R104, R112). -/

theorem test_decode_own_display : decode own [0x01FFFFFE, 0] = .ok (.wsDisplay 0x7FFFFF 0) := by
  decide
theorem test_decode_own_raw : decode own [0x03FFFFFE, 0] = .ok (.wsRaw 0x03 0xFFFFFE) := by decide
theorem test_decode_own_request : decode own [0xFF123456, 0] = .ok (.wsReqTexwin 0x1234)
      := by decide
theorem test_decode_own_alias : decode own [0xFF000005, 0] = .ok (.wsReqDrawoffA 0) := by decide

/-! The forms without bits of their own take the model's selector words (log entry 3). -/

theorem test_decode_wdPixels : decode std [0x22221111, 1] = .ok (.wdPixels 0x2222 0x1111)
      := by decide
theorem test_decode_wdNormal : decode std [0xE1000000, 2] = .ok (.wdNormal 0xE1000000) := by decide
theorem test_decode_rdPixels : decode std [0, 3] = .ok .rdPixels := by decide
theorem test_decode_rdReply : decode std [0, 4] = .ok .rdReply := by decide
theorem test_decode_chainNode : decode std [0x02000200, 5, 0x100] = .ok (.chainNode 0x100 2 0x200)
      := by decide
theorem test_decode_chainEnd : decode std [0xFFFFFFFF, 5, 0x100] = .ok (.chainEnd 0x100 255)
      := by decide
theorem test_decode_frzSet : decode std [0, 6] = .ok .frzSet := by decide
theorem test_decode_frzGet : decode std [1, 6] = .ok .frzGet := by decide
theorem test_decode_frzInfo : decode std [2, 6] = .ok .frzInfo := by decide
theorem test_decode_frzOther : decode std [5, 6] = .ok (.frzOther 5) := by decide
theorem test_decode_init : decode std [1, 7] = .ok (.init true) := by decide
theorem test_decode_shutdown : decode std [0, 8] = .ok .shutdown := by decide
theorem test_decode_openPort : decode std [0, 9] = .ok .openPort := by decide
theorem test_decode_closePort : decode std [0, 10] = .ok .closePort := by decide
theorem test_decode_rs : decode std [0, 11] = .ok .rs := by decide
theorem test_decode_rd : decode std [0, 12] = .ok .rd := by decide
theorem test_decode_rdm : decode std [3, 13] = .ok (.rdm 3) := by decide
theorem test_decode_wd : decode std [0x1234, 14] = .ok (.wd 0x1234) := by decide
theorem test_decode_wdm : decode std [2, 15, 0xA, 0xB] = .ok (.wdm [0xA, 0xB]) := by decide
theorem test_decode_chain : decode std [0x80000100, 16] = .ok (.chain 0x80000100) := by decide
theorem test_decode_frz : decode std [2, 17] = .ok (.frz 2) := by decide
theorem test_decode_vsync : decode std [0, 18] = .ok .vsync := by decide
theorem test_decode_areaIn : decode std [4, 19, 1, 2, 3] = .ok (.areaIn 4 1 2 3) := by decide
theorem test_decode_areaOut : decode std [16, 20, 2, 3, 2] = .ok (.areaOut 16 2 3 2) := by decide
theorem test_decode_kick : decode std [0, 21] = .ok .kick := by decide
theorem test_decode_statSet : decode std [0x1E00, 22] = .ok (.statSet 0x1E00) := by decide
theorem test_decode_statClr : decode std [0x0400, 23] = .ok (.statClr 0x0400) := by decide
theorem test_decode_infoStore : decode std [0x10020, 24, 1] = .ok (.infoStore .drawstart 0x10020)
      := by decide

theorem test_decode_no_selector : decode std [0] = .error .shortPacket := by decide
theorem test_decode_unknown_selector : decode std [0, 25] = .error .unknownSelector := by decide
theorem test_decode_bad_length : decode std [2, 15, 0xA] = .error .badLength := by decide
theorem test_decode_bad_operand : decode std [0, 24, 4] = .error .badOperand := by decide
theorem test_table_word : decodeTableWord 32 0x05000C10 = some (.wsPos 3 16) := by decide
theorem test_fetch_word :
    nextHas (step (start.withFetchWord 32 0x04000002)) (fun t => t.stat == 0x54802000) = true := by
  decide

/-! ## The status port (95_test_vectors.md 2.1 and 2.2) -/

/-- T14 and B1: Reset abandons a transfer. -/
theorem test_reset_mid_transfer :
    nextHas (exec (.wsReset 0xABCDEF) (writing 0 0 2 2 { start with stat := 0x74120000 }))
      (fun t => t.stat == 0x14802000 && t.outMode == .normal && t.cout == Cursor.idle
      && ctlEntry t 0 == 0x00ABCDEF) = true := by decide
/-- A7: Reset does not stop a fake-busy sequence. -/
theorem test_reset_keeps_busy :
    nextHas (exec (.wsReset 0) { start with busy := 3, vsyncReady := true })
      (fun t => t.busy == 3 && t.vsyncReady) = true := by decide
/-- B2: display on at depth 15. -/
theorem test_display_on :
    nextHas (exec (.wsDisplay 0 0) start)
      (fun t => t.stat == 0x14002000 && t.events == [.uploadFullscreen]) = true := by decide
/-- B3: an enabled display enabled again. -/
theorem test_display_on_again :
    nextHas (exec (.wsDisplay 0 0) { start with stat := 0x14002000 })
      (fun t => t.stat == 0x14002000 && t.events == []) = true := by decide
/-- B8: m = 1 changes no mode. -/
theorem test_mode_one :
    nextHas (exec (.wsMode 0 1) start)
      (fun t => t.stat == 0x34802000 && t.inMode == .normal && t.outMode == .normal) = true
      := by decide
/-- B12: m = 2, the rest of the word ignored. -/
theorem test_mode_two :
    nextHas (exec (.wsMode 0x3FFFFF 2) start)
      (fun t => t.stat == 0x54802000 && t.inMode == .normal && t.outMode == .vramTransfer
        && ctlEntry t 4 == 0x04FFFFFE) = true := by decide
/-- B13: position and end. -/
theorem test_pos :
    nextHas (exec (.wsPos 3 16) start)
      (fun t => t.geo.pos == ⟨16, 3⟩ && t.geo.dispEnd == ⟨272, 3⟩ && t.vsyncReady) = true
      := by decide
/-- B15: bit 19 lies outside the 9-bit field. -/
theorem test_pos_bit_nineteen :
    nextHas (exec (.wsPos 0x200 0) start)
      (fun t => t.geo.pos == ⟨0, 0⟩) = true := by decide
/-- B16: the visible range, no event. -/
theorem test_hrange :
    nextHas (exec (.wsHrange 0xC60 0x260) start)
      (fun t => t.geo.range.left == 0x260 && t.geo.range.right == 0xC60 && t.events == []
        && !t.vsyncReady) = true := by decide
/-- B20: a bottom above the top gives a negative height. -/
theorem test_vrange :
    nextHas (exec (.wsVrange 0 16 256) start)
      (fun t => t.geo.size.y == -240 && t.events == [.displayRefresh]) = true := by decide
/-- B19: the same range again, nothing happens. -/
theorem test_vrange_same :
    nextHas (exec (.wsVrange 0 0 0) start)
      (fun t => t.geo == start.geo && t.events == []) = true := by decide
/-- B23: preset 1, PAL, interlaced. -/
theorem test_info_pal_interlaced :
    nextHas (exec (.wsInfo 0 0 0 1 0 1 0 1) start)
      (fun t => t.stat == 0x14D22000 && t.geo.size.x == 320 && t.geo.localization == .pal
        && t.ft.targetFps == start.cfg.fpsPalLace) = true := by decide +kernel
/-- B24: preset 7, all four flags. -/
theorem test_info_preset_seven :
    nextHas (exec (.wsInfo 0 0 1 1 1 1 1 3) start)
      (fun t => t.stat == 0x14FF2000 && t.geo.size.x == 640 && t.geo.multiplier == 2
        && t.geo.depth == .bits24) = true := by decide
/-- The raw-info table of the GpuRequest vectors, an earlier reply in the latch. -/
def withInfo : State :=
  { start with info := ⟨0x000A0001, 0x00010020, 0x0003FDFF, 0x00000855⟩, gdata := 0x12345678 }

theorem test_wsReqTexwin :
    nextHas (exec (.wsReqTexwin 0) withInfo) (fun t => t.gdata == 0x000A0001) = true := by decide
theorem test_wsReqDrawstart :
    nextHas (exec (.wsReqDrawstart 0) withInfo) (fun t => t.gdata == 0x00010020) = true := by decide
theorem test_wsReqDrawend :
    nextHas (exec (.wsReqDrawend 0) withInfo) (fun t => t.gdata == 0x0003FDFF) = true := by decide
theorem test_wsReqDrawoffA :
    nextHas (exec (.wsReqDrawoffA 0) withInfo) (fun t => t.gdata == 0x00000855) = true := by decide
theorem test_wsReqDrawoffB :
    nextHas (exec (.wsReqDrawoffB 0) withInfo) (fun t => t.gdata == 0x00000855) = true := by decide
theorem test_wsReqGputype :
    nextHas (exec (.wsReqGputype 0xABCD) withInfo) (fun t => t.gdata == 0x00000002) = true
      := by decide
theorem test_wsReqBiosaddrA :
    nextHas (exec (.wsReqBiosaddrA 0) withInfo) (fun t => t.gdata == 0xBFC03720) = true := by decide
theorem test_wsReqBiosaddrB :
    nextHas (exec (.wsReqBiosaddrB 0) withInfo) (fun t => t.gdata == 0xBFC03720) = true := by decide
theorem test_wsReqOther :
    nextHas (exec (.wsReqOther 0 9) withInfo) (fun t => t.gdata == 0x12345678) = true := by decide
/-- B26: opcode 1 is only stored. -/
theorem test_raw01 :
    nextHas (exec (.wsRaw01 0) start)
      (fun t => ctlEntry t 1 == 0x01000000 && t.stat == start.stat) = true := by decide
/-- opcode 2 likewise. -/
theorem test_raw02 :
    nextHas (exec (.wsRaw02 7) start)
      (fun t => ctlEntry t 2 == 0x02000007 && t.stat == start.stat) = true := by decide
/-- B27: an unassigned opcode is only stored. -/
theorem test_raw :
    nextHas (exec (.wsRaw 0xFF 0x123456) start)
      (fun t => ctlEntry t 255 == 0xFF123456 && t.stat == start.stat) = true := by decide
/-- A2: the first read after a kick. -/
theorem test_rs_busy :
    nextHas (exec .rs { start with busy := 4 })
      (fun t => t.answer == .word 0x00802000 && t.busy == 3 && t.stat == 0x00802000) = true
      := by decide
/-- A6, second read: the toggle comes after the sample. -/
theorem test_rs_odd_even :
    nextHas (exec .rs (under (fun p => { p with fixOddEvenBit := true })
        { start with busy := 3, rdcnt := 1, stat := 0x00802000 }))
      (fun t => t.answer == .word 0x14802000 && t.stat == 0x94802000 && t.rdcnt == 0) = true
      := by decide
/-- B2 with the opcode 0x01: its own slot. -/
theorem test_own_display :
    nextHas (exec (.wsDisplay 0 0) { start with cfg := own })
      (fun t => t.stat == 0x14002000 && ctlEntry t 1 == 0x01000000 && ctlEntry t 3 == 0) = true
      := by decide
/-- A6's toggle with OddLines at bit 24. -/
theorem test_own_odd_lines :
    nextHas (exec .rs { start with cfg := { own with fixOddEvenBit := true }, rdcnt := 1 })
      (fun t => t.answer == .word 0x14802000 && t.stat == 0x15802000) = true := by decide
/-- A4: a kick restarts the sequence. -/
theorem test_kick :
    nextHas (exec .kick { start with busy := 3 })
      (fun t => t.busy == 4) = true := by decide
/-- A8: set. -/
theorem test_stat_set :
    nextHas (exec (.statSet 0x1E00) start)
      (fun t => t.stat == 0x14803E00) = true := by decide
/-- A8: a mask above bit 15. -/
theorem test_stat_set_high : refusedAs (exec (.statSet 0x10000) start) .backendStatMask = true
      := by decide
/-- A8: clear. -/
theorem test_stat_clr :
    nextHas (exec (.statClr 0x0400) { start with stat := 0x14803E00 })
      (fun t => t.stat == 0x14803A00) = true := by decide
/-- the mask of a clear likewise. -/
theorem test_stat_clr_high : refusedAs (exec (.statClr 0x80000001) start) .backendStatMask = true
      := by decide
/-- 2.2: an entry of the raw-info table. -/
theorem test_info_store :
    nextHas (exec (.infoStore .drawend 0x0003FDFF) start)
      (fun t => t.info == ⟨0, 0, 0x0003FDFF, 0⟩) = true := by decide

/-! ## The data port (95_test_vectors.md 2.3) -/

/-- R161 and T9: arming a read. -/
theorem test_area_in :
    nextHas (exec (.areaIn 4 1 2 2) start)
      (fun t => t.cin == ⟨4, 1, 2, 2, 2, 2, 1028⟩ && t.inMode == .vramTransfer
      && t.stat == 0x1C802000) = true := by decide
/-- T20: a row outside VRAM. -/
theorem test_area_in_range : refusedAs (exec (.areaIn 0 512 1 1) start) .defineAreaRange = true
      := by decide
/-- R161: arming a write. -/
theorem test_area_out :
    nextHas (exec (.areaOut 16 2 3 2) start)
      (fun t => t.cout == ⟨16, 2, 3, 2, 3, 2, 2064⟩ && t.outMode == .vramTransfer
        && t.stat == 0x14802000) = true := by decide
/-- a negative operand. -/
theorem test_area_out_negative : refusedAs
      (exec (.areaOut 0xFFFFFFFF 0 1 1) start) .defineAreaRange = true := by decide
/-- The four cells that T1 leaves. -/
def uploaded : State :=
  { start with vram :=
    [(2056, 0x11), (2057, 0x11), (2058, 0x22), (2059, 0x22), (4104, 0x33), (4105, 0x33),
      (4106, 0x44), (4107, 0x44)] }

/-- T1: two rows of two cells. -/
theorem test_wdm :
    nextHas (exec (.wdm [0x22221111, 0x44443333]) (writing 4 1 2 2 start))
      (fun t => t.vram == uploaded.vram && t.outMode == .normal && t.vsyncReady) = true := by decide
/-- T2: a word straddles two rows. -/
theorem test_wdm_odd_rows :
    nextHas (exec (.wdm [0x00020001, 0x00040003, 0x00060005]) (writing 0 0 3 2 start))
      (fun t => t.vram == [(0, 1), (2, 2), (4, 3), (2048, 4), (2050, 5), (2052, 6)]
        && t.cout == Cursor.idle) = true := by decide
/-- S9: a one-cell window drops the high half. -/
theorem test_wd_odd_edge :
    nextHas (exec (.wd 0xBEEF1234) (writing 7 0 1 1 start))
      (fun t => t.vram == [(14, 0x34), (15, 0x12)] && t.outMode == .normal && t.vsyncReady) = true
      := by decide
/-- T13: an unarmed write is retired. -/
theorem test_wd_empty_transfer :
    nextHas (exec (.wd 0xE1000000) { start with outMode := .vramTransfer })
      (fun t => t.outMode == .normal && t.events == [.normalWord 0xE1000000] && !t.vsyncReady)
      = true := by decide
/-- T5: the window wraps to row 0. -/
theorem test_wd_pixels_wrap :
    nextHas (exec (.wdPixels 0xDDDD 0xCCCC)
        { writing 0 511 2 2 start with cout := ⟨0, 511, 2, 2, 2, 1, 0⟩ })
      (fun t => t.vram == [(0, 0xCC), (1, 0xCC), (2, 0xDD), (3, 0xDD)] && t.cout == Cursor.idle)
      = true := by decide
/-- T11: the back end arms inside a chunk. -/
theorem test_wd_normal_answered :
    nextHas (exec (.wdm [0xA0000000, 0x22221111])
        { start with backend := [[.defineArea .output 0 0 2 1]] })
      (fun t => t.vram == [(0, 0x11), (1, 0x11), (2, 0x22), (3, 0x22)]
        && t.events == [.normalWord 0xA0000000]) = true := by decide
/-- T10: a Normal word. -/
theorem test_wd_normal :
    nextHas (exec (.wdNormal 0x01020304) start)
      (fun t => t.events == [.normalWord 0x01020304] && t.vram == []) = true := by decide
/-- T6: the window read back. -/
theorem test_rdm :
    nextHas (exec (.rdm 2) (reading 4 1 2 2 uploaded))
      (fun t => t.answer == .words [0x22221111, 0x44443333] && t.gdata == 0x44443333
        && t.inMode == .normal) = true := by decide
/-- T8: the high half below the window's first column. -/
theorem test_rdm_odd :
    nextHas (exec (.rdm 2) (reading 0 0 3 1
        { start with vram := [(0, 1), (2, 2), (4, 3), (2048, 4)] }))
      (fun t => t.answer == .words [0x00020001, 0x00040003]) = true := by decide
/-- T9: one word of two. -/
theorem test_rd :
    nextHas (exec .rd (reading 4 1 2 2 uploaded))
      (fun t => t.answer == .word 0x22221111 && t.inMode == .vramTransfer && t.cin.rc == 1) = true
      := by decide
/-- R172: a reply collected. -/
theorem test_rd_normal :
    nextHas (exec .rd { start with gdata := 2 })
      (fun t => t.answer == .word 2 && t.gdata == 2) = true := by decide
/-- T9: the form a read takes in VramTransfer mode. -/
theorem test_rd_pixels :
    nextHas (exec .rdPixels (reading 4 2 2 1 uploaded))
      (fun t => t.answer == .word 0x44443333 && t.inMode == .normal) = true := by decide
/-- T9: the form it takes in Normal mode. -/
theorem test_rd_reply :
    nextHas (exec .rdReply { start with gdata := 0x44443333 })
      (fun t => t.answer == .word 0x44443333) = true := by decide

/-! ## The chain walker (95_test_vectors.md 2.4) -/

/-- D1's memory. -/
def listMemory : Memory :=
  memory [(0x40, 0x02000200), (0x41, 0xAAAA0001), (0x42, 0xBBBB0002), (0x80, 0x00FFFFFF)]

/-- S4's memory, a cycle of two. -/
def cycleMemory : Memory :=
  memory [(0x40, 0x01000200), (0x41, 0x0000000A), (0x80, 0x01000100), (0x81, 0x0000000B)]

/-- A block with a given system memory and a small cap. -/
def walking (m : Memory) : State := under (fun p => { p with chainIterCap := 5 })
      { start with sysMem := m }

/-- D3: only the low 24 bits of the start are used. -/
theorem test_chain :
    nextHas (exec (.chain 0x80000100) (walking listMemory))
      (fun t => t.events == [.normalWord 0xAAAA0001, .normalWord 0xBBBB0002]) = true := by decide
/-- S4: each node of a two-cycle once. -/
theorem test_chain_cycle :
    nextHas (exec (.chain 0x100) (walking cycleMemory))
      (fun t => t.events == [.normalWord 0xA, .normalWord 0xB]) = true := by decide
/-- S3: a self-loop delivers once. -/
theorem test_chain_node_self :
    nextHas (exec (.chainNode 0x100 1 0x100)
        (walking (memory [(0x40, 0x01000100), (0x41, 0x11111111)])))
      (fun t => t.events == [.normalWord 0x11111111]) = true := by decide
/-- D6: the cycle test compares masked addresses. -/
theorem test_chain_node_masked :
    nextHas (exec (.chainNode 0x100 1 0xE00100)
        (walking (memory [(0x40, 0x01E00100), (0x41, 0x11111111)])))
      (fun t => t.events == [.normalWord 0x11111111]) = true := by decide
/-- D8, second node: the rest of an image and a command. -/
theorem test_chain_end :
    nextHas (exec (.chainEnd 0x200 2)
        { writing 0 0 2 2 (walking (memory [(0x81, 0x44443333), (0x82, 0xE1000400)])) with
          cout := ⟨0, 0, 2, 2, 2, 1, 1024⟩ })
      (fun t => t.vram == [(2048, 0x33), (2049, 0x33), (2050, 0x44), (2051, 0x44)]
        && t.events == [.normalWord 0xE1000400] && t.vsyncReady) = true := by decide
/-- D11: a payload off the end. -/
theorem test_chain_end_off_memory : refusedAs
      (exec (.chainEnd 0x1FFFFC 1) (walking [])) .chainOutOfMemory = true := by decide

/-! ## Save state and lifecycle (95_test_vectors.md 2.5 and 2.7) -/

/-- F1 and F2: status and a cell in the image. -/
theorem test_frz_get :
    nextHas (exec .frzGet (withImage [(0, 1)] { start with vram := [(0, 0xAA), (1, 0xBB)] }))
      (fun t => t.answer == .code 1 && readWord t.img.bytes 4 == 0x14802000
        && readByte t.img.bytes 1032 == 0xAA && readByte t.img.bytes 1033 == 0xBB) = true
      := by decide +kernel
/-- F4: a version of 0. -/
theorem test_frz_get_version :
    nextHas (exec .frzGet (withImage [] start))
      (fun t => t.answer == .code 0 && t.img.bytes == []) = true := by decide
/-- F5: a version of 2. -/
theorem test_frz_set_version :
    nextHas (exec .frzSet (withImage [(0, 2)] { start with stat := 0x54802000 }))
      (fun t => t.answer == .code 0 && t.stat == 0x54802000) = true := by decide
/-- P3: the last of nine replayed words is opcode 4, at offset 24. -/
theorem test_frz_set :
    nextHas (exec .frzSet (withImage [(0, 1), (24, 2), (27, 4), (1032, 0xAA)]
        { start with stat := 0xFFFFFFFF }))
      (fun t => t.answer == .code 1 && t.stat == 0x54802000 && t.outMode == .vramTransfer
        && t.cout == Cursor.idle && t.vram == [(0, 0xAA)]) = true := by decide +kernel
/-- F6: slot 3. -/
theorem test_frz_info :
    nextHas (exec .frzInfo { start with img := ⟨4, [(0, 3)]⟩ })
      (fun t => t.answer == .code 1 && t.saveSlot == 3) = true := by decide
/-- F7: slot 9 fails. -/
theorem test_frz_info_nine :
    nextHas (exec .frzInfo { start with img := ⟨4, [(0, 9)]⟩, saveSlot := 8 })
      (fun t => t.answer == .code 0 && t.saveSlot == 8) = true := by decide
/-- F9: an unknown mode. -/
theorem test_frz_other :
    nextHas (exec (.frzOther 5) start)
      (fun t => t.answer == .code 0) = true := by decide
/-- F8: the slot number is no version. -/
theorem test_frz_mode_two :
    nextHas (exec (.frz 2) { start with img := ⟨4, [(0, 2)]⟩ })
      (fun t => t.answer == .code 1 && t.saveSlot == 2) = true := by decide
/-- F10: an image of 1031 bytes. -/
theorem test_frz_short : refusedAs (exec (.frz 1)
      { start with img := ⟨1031, [(0, 1)]⟩ }) .freezeImageSize = true := by decide
/-- L8: a cold reset clears VRAM. -/
theorem test_init :
    nextHas (exec (.init true) { start with life := .off, vram := [(0, 1)], stat := 0 })
      (fun t => t.life == .ready && t.stat == 0x14802000 && t.vram == []) = true
      := by decide +kernel
/-- L2: no memory. -/
theorem test_init_fails :
    nextHas (exec (.init false) { start with life := .off })
      (fun t => t.life == .off && t.answer == .success false) = true := by decide
/-- P1: the clock at OPEN. -/
theorem test_open :
    nextHas (exec .openPort { start with clock := ⟨900, [100, 5]⟩ })
      (fun t => t.life == .opened && t.events == [.apiSet] && t.ft.nextUpdate == 1000
        && t.clock == ⟨1000, [5]⟩) = true := by decide
/-- L3: CLOSE. -/
theorem test_close :
    nextHas (exec .closePort { start with life := .opened })
      (fun t => t.life == .ready && t.events == [.apiUnset]) = true := by decide
/-- L8: SHUTDOWN. -/
theorem test_shutdown :
    nextHas (exec .shutdown start)
      (fun t => t.life == .off) = true := by decide
/-- L6: SHUTDOWN of an open block. -/
theorem test_shutdown_open : refusedAs (exec .shutdown { start with life := .opened }) .lifecycle
      = true := by decide

/-! ## The frame timer (95_test_vectors.md 2.6 and P4) -/

/-- P4's configuration, one frame on. -/
def paced : State :=
  under (fun p => { p with
      autoDetectRate := false, fixedFps := 50, frameLimitEnabled := true
      fpsDisplayEnabled := true, ecoMode := true })
    { start with
      life := .opened
      clock := ⟨1005, [5, 10, 0]⟩
      ft := { start.ft with
        targetFps := 50, targetDuration := 20, nextUpdate := 1020, lastMeasure := 1005
        lastDisplay := 1000 } }

/-- P4 line 4: sleep, hold, measure. -/
theorem test_vsync_ahead :
    nextHas (exec .vsync paced)
      (fun t => t.events == [.sleep 6] && t.ft.nextUpdate == 1040 && t.ft.measuredFps == 1000 / 15
        && t.stat == 0x94802000) = true := by decide +kernel
/-- P4 line 5: clamp, stall and refresh. -/
theorem test_vsync_stall :
    nextHas (exec .vsync { paced with clock := ⟨1020, [280, 0]⟩ })
      (fun t => t.ft.nextUpdate == 1300 && t.ft.measuredFps == 2 && t.ft.lastDisplay == 1300)
      = true := by decide +kernel

/-! ## Witnesses: a state and operands that meet the hypotheses of an obligation together -/

/-- An open block in the middle of everything: both windows armed, bytes in VRAM, a fake-busy
sequence, an image, readings and a back-end answer to come. -/
def busyBlock : State :=
  { start with
    life := .opened
    stat := 0x1C802000
    inMode := .vramTransfer
    outMode := .vramTransfer
    cin := ⟨1023, 511, 3, 2, 2, 1, 524287⟩
    cout := ⟨0, 0, 3, 1, 1, 1, 2⟩
    vram := [(4, 0x77), (1048575, 0x11)]
    busy := 1
    img := ⟨4, [(0, 8)]⟩
    clock := ⟨1000, [20, 5]⟩
    ft := { start.ft with nextUpdate := 1010, lastMeasure := 990, lastDisplay := 700 }
    backend := [[.statSet 0xFFFF, .defineArea .output 1023 511 1024 512]] }

theorem busyBlock_inv : Machine.Inv busyBlock where
  vramWf := by decide
  vramBelow := by decide
  sysMemWf := by decide
  imgWf := by decide
  imgBelow := by decide
  cinOk := .inr (by decide)
  coutOk := .inr (by decide)
  cinMode := by decide
  coutMode := by decide
  rdcntLe := by decide
  busyLe := by decide
  slotLe := by decide
  framesLe := by decide
  skipLe := by decide
  geoOk := ⟨rfl, by decide, .inl rfl, by decide, by decide, by decide, by decide, by decide, by decide⟩
  params := fun _ => by decide +kernel
  rates := fun _ => ⟨by decide +kernel, rfl, by decide +kernel, by decide +kernel⟩
  measureOrder := fun _ => by decide
  displayOrder := fun _ => by decide

theorem witness_DecodeOfEncode_own :
    codesOk own = true ∧ (Instr.wsRaw 0x03 0).wellFormed own = true := by decide
theorem witness_DecodeOfEncode :
    codesOk std = true ∧ (Instr.wdm [1, 2]).wellFormed std = true
      ∧ (Instr.wsReqOther 0xFFFF 0).wellFormed std = true :=
  by decide
theorem witness_EncodeOfDecode :
    decode std [0xFFFFFFFF, 5, 0xFFFFFF] = .ok (.chainEnd 0xFFFFFF 255) := by decide
/-- A request and the state it waits in. -/
def waiting (r : Request) : State := { start with requests := [r] }

theorem witness_StepRunsDecodedInstr :
    (waiting ⟨32, false, [0, 11]⟩).requests = [⟨32, false, [0, 11]⟩]
      ∧ decode std [0, 11] = .ok .rs :=
  by decide
theorem witness_StepStopsOrWaits_none : start.requests = [] := by decide
theorem witness_StepStopsOrWaits_overlap :
    (waiting ⟨8, true, []⟩).requests = ⟨8, true, []⟩ :: [] := by decide
theorem witness_StepStopsOrWaits_narrow :
    (waiting ⟨16, false, [0, 11]⟩).requests = ⟨16, false, [0, 11]⟩ :: [] ∧ 16 ≠ 32 := by decide
theorem witness_StepStopsOrWaits_words :
    (waiting ⟨32, false, [0]⟩).requests = ⟨32, false, [0]⟩ :: []
      ∧ decode std [0] = .error .shortPacket :=
  by decide
theorem witness_InvKeptByStep :
    Machine.Inv { busyBlock with requests := [plainRequest [0, 11]] }
      ∧ nextHas (step { busyBlock with requests := [plainRequest [0, 11]] }) (fun _ => true)
      = true :=
  ⟨{ busyBlock_inv with }, by decide⟩
theorem witness_NoCursorEscapes :
    Machine.Inv { busyBlock with requests := [plainRequest [0xFFFFFFFF, 14]] }
      ∧ nextHas (step { busyBlock with requests := [plainRequest [0xFFFFFFFF, 14]] })
        (fun _ => true) = true :=
  ⟨{ busyBlock_inv with }, by decide⟩
theorem witness_EveryStatusWordIsACommand :
    (waiting (plainRequest [0xFFFFFFFF, 0])).life ≠ .off
      ∧ (waiting (plainRequest [0xFFFFFFFF, 0])).requests = plainRequest [0xFFFFFFFF, 0] :: [] :=
  by decide
theorem witness_CommandWritesOwnFields :
    busyBlock.life ≠ .off ∧ (0x01000000 : Word).extractLsb' 24 8 ≠ busyBlock.cfg.ops.reset
      ∧ (0xFF000000 : Word).extractLsb' 24 8 ≠ busyBlock.cfg.ops.setTransferMode
      ∧ (0x0FFFFFFF : Word).extractLsb' 24 8 ≠ busyBlock.cfg.ops.gpuRequest :=
  by decide
theorem witness_ResetCommand : busyBlock.life ≠ .off := by decide
theorem witness_ToggleDisplayCommand : busyBlock.life ≠ .off := by decide
theorem witness_SetTransferModeCommand : busyBlock.life ≠ .off := by decide
theorem witness_SetDisplayPositionCommand : busyBlock.life ≠ .off := by decide
theorem witness_SetDisplayWidthCommand : busyBlock.life ≠ .off := by decide
theorem witness_GpuRequestReplies : busyBlock.life ≠ .off := by decide
theorem witness_UnassignedOpcodesOnlyStore : busyBlock.life ≠ .off := by decide
theorem witness_StatusReadResult : busyBlock.life ≠ .off := by decide
theorem witness_SetDisplayInfoCommand :
    busyBlock.life ≠ .off ∧ paramsOk busyBlock.cfg = true := ⟨by decide, by decide +kernel⟩
theorem witness_SetDisplayHeightCommand :
    start.life ≠ .off ∧ (0 : BitVec 10).toNat = start.geo.range.top
      ∧ (1023 : BitVec 10).toNat ≠ start.geo.range.bottom :=
  by decide
theorem witness_RateSelection :
    { Params.defaults false with autoDetectRate := false }.autoDetectRate = false
      ∧ { Params.defaults false with fixFpsLimit := true }.autoDetectRate = true
      ∧ { Params.defaults false with fixFpsLimit := true }.fixFpsLimit = true
      ∧ (Params.defaults true).autoDetectRate = true ∧ (Params.defaults true).fixFpsLimit = false
      := by
  decide
theorem witness_StatusReadIsPure :
    start.life ≠ .off ∧ start.busy = 0 ∧ start.cfg.fixOddEvenBit = false := by decide
theorem witness_FourStatusReads :
    let s := under (fun p => { p with fixOddEvenBit := true }) busyBlock
    s.life ≠ .off ∧ paramsOk s.cfg = true ∧ s.cfg.fixOddEvenBit = true ∧ s.rdcnt = 0 :=
  by decide +kernel
theorem witness_FakeBusyEndsReady :
    busyBlock.life ≠ .off ∧ paramsOk busyBlock.cfg = true ∧ 0 < busyBlock.busy
      ∧ busyBlock.cfg.fixOddEvenBit = false :=
  by decide +kernel
theorem witness_BackendStatusCalls :
    busyBlock.life ≠ .off ∧ (0xFFFF : Word).toNat < 65536 ∧ ¬ (0x10000 : Word).toNat < 65536 :=
  by decide
theorem witness_DefineArea :
    start.life ≠ .off ∧ (1023 : Word).toInt ≤ 1023 ∧ (511 : Word).toInt < start.cfg.vramKb
      ∧ (1024 : Word).toInt ≤ 1024 ∧ (512 : Word).toInt ≤ start.cfg.vramKb
      ∧ ¬ 0 ≤ (0x80000000 : Word).toInt :=
  by decide
theorem witness_StepCursorRule :
    cursorLegal start.cfg ⟨1023, 511, 1024, 512, 1, 1, 524287⟩ = true
      ∧ cursorLegal start.cfg ⟨0, 0, 2, 1, 2, 1, 0⟩ = true :=
  by decide
theorem witness_NormalModeReads : start.life ≠ .off ∧ start.inMode = .normal := by decide
theorem witness_ArmedReadProducesOneWord :
    busyBlock.life ≠ .off ∧ busyBlock.inMode = .vramTransfer
      ∧ cursorLegal busyBlock.cfg busyBlock.cin = true :=
  by decide
theorem witness_ReadChunksCompose :
    Machine.Inv busyBlock ∧ busyBlock.life ≠ .off
      ∧ (0xFFFFFFFE : Word).toNat + (1 : Word).toNat < 2 ^ 32 :=
  ⟨busyBlock_inv, by decide, by decide⟩
theorem witness_WholeWindowReadBack :
    let s := reading 1023 511 1024 1 start
    s.life ≠ .off ∧ s.inMode = .vramTransfer ∧ 511 < s.cfg.vramKb ∧ 1 ≤ s.cfg.vramKb
      ∧ s.cin = ⟨1023, 511, 1024, 1, 1024, 1, 511 * 1024 + 1023⟩
      ∧ windowWords 1024 1 ≤ (512 : Word).toNat :=
  by decide
theorem witness_WholeWindowReadBack_odd :
    let s := reading 0 0 1 1 start
    s.life ≠ .off ∧ s.inMode = .vramTransfer ∧ s.cin = ⟨0, 0, 1, 1, 1, 1, 0 * 1024 + 0⟩
      ∧ windowWords 1 1 ≤ (1 : Word).toNat ∧ 1 * 1 % 2 = 1 :=
  by decide
theorem witness_IdleCursorRetires :
    let s := { start with inMode := .vramTransfer, outMode := .vramTransfer }
    s.life ≠ .off ∧ s.inMode = .vramTransfer ∧ s.cin = ⟨0, 0, 0, 0, 0, 0, 0⟩
      ∧ s.outMode = .vramTransfer ∧ s.cout = ⟨0, 0, 0, 0, 0, 0, 0⟩ ∧ s.backend = [] :=
  by decide
theorem witness_PixelWordStores :
    busyBlock.life ≠ .off ∧ memWf busyBlock.vram ∧ busyBlock.outMode = .vramTransfer
      ∧ cursorLegal busyBlock.cfg busyBlock.cout = true :=
  by decide
theorem witness_PixelWordStores_inside :
    let s := writing 1023 511 2 2 start
    s.life ≠ .off ∧ memWf s.vram ∧ s.outMode = .vramTransfer ∧ cursorLegal s.cfg s.cout = true :=
  by decide
theorem witness_NormalWordsHandedOver :
    start.life ≠ .off ∧ start.outMode = .normal ∧ start.backend = [] := by decide
theorem witness_WriteChunksCompose : busyBlock.life ≠ .off := by decide
theorem witness_BackendArmsInsideChunk :
    let s := { start with
      backend := [[.defineArea .output (1023 : Nat) (511 : Nat) (1024 : Nat) (512 : Nat)]] }
    s.life ≠ .off ∧ s.outMode = .normal ∧ 511 < s.cfg.vramKb ∧ 512 ≤ s.cfg.vramKb
      ∧ s.backend
        = [.defineArea .output (1023 : Nat) (511 : Nat) (1024 : Nat) (512 : Nat)] :: [] :=
  by decide
theorem witness_WholeWindowUpload :
    let s := writing 1023 511 1 1 start
    s.life ≠ .off ∧ memWf s.vram ∧ s.outMode = .vramTransfer ∧ 511 < s.cfg.vramKb
      ∧ s.cout = ⟨1023, 511, 1, 1, 1, 1, 511 * 1024 + 1023⟩
      ∧ [(0 : Word)].length = windowWords 1 1 :=
  by decide
theorem witness_DataWritesComplete :
    Machine.Inv busyBlock ∧ busyBlock.life ≠ .off
      ∧ ∀ calls ∈ busyBlock.backend, ∀ c ∈ calls, callAllowed busyBlock.cfg c :=
  by
  refine ⟨busyBlock_inv, by decide, fun calls hcalls c hc => ?_⟩
  simp only [busyBlock, List.mem_singleton] at hcalls
  subst hcalls
  simp only [List.mem_cons, List.not_mem_nil, or_false] at hc
  rcases hc with rfl | rfl
  · show maskInRange 0xFFFF = true; decide
  · show areaInRange busyBlock.cfg 1023 511 1024 512 = true; decide
theorem witness_ChainEndDelivers :
    let s := start
    s.life ≠ .off ∧ 0 < s.cfg.chainIterCap ∧ (0x1FFFFC : Addr) ≠ 0xFFFFFF
      ∧ ((0x1FFFFC : Addr) &&& s.cfg.addrMask).toNat / 4 + (0 : BitVec 8).toNat < s.cfg.memWords
      ∧ s.outMode = .normal ∧ s.backend = [] :=
  by decide
theorem witness_ChainNodeDelivers :
    let s := walking (memory [(0x80, 0x01FFFFFF), (0x81, 5)])
    s.life ≠ .off ∧ (0x100 : Addr) ≠ 0xFFFFFF
      ∧ ((0x100 : Addr) &&& s.cfg.addrMask).toNat / 4 + (255 : BitVec 8).toNat < s.cfg.memWords
      ∧ [(0x100 : Addr) &&& s.cfg.addrMask, 0x200].Nodup
      ∧ [(0x200 : Addr)].length < s.cfg.chainIterCap
      ∧ chainLaid s 0x200 [0x200] ∧ s.outMode = .normal ∧ s.backend = [] :=
  by
  refine ⟨by decide, by decide, by decide, by decide, by decide, ?_, by decide, by decide⟩
  exact ⟨by decide, by decide, by decide, by show headerNext _ = _; decide⟩
theorem witness_ChainListDelivered :
    let s := walking listMemory
    s.life ≠ .off ∧ [(0x100 : Addr), 0x200].Nodup
      ∧ [(0x100 : Addr), 0x200].length ≤ s.cfg.chainIterCap
      ∧ chainLaid s ((0x80000100 : Word).extractLsb' 0 24) [0x100, 0x200]
      ∧ s.outMode = .normal ∧ s.backend = [] :=
  by
  refine ⟨by decide, by decide, by decide, ?_, by decide, by decide⟩
  exact ⟨by decide, by decide, by decide, by decide, by decide, by decide,
    by show headerNext _ = _; decide⟩
theorem witness_ChainListDelivered_sentinel :
    chainLaid start ((0x12FFFFFF : Word).extractLsb' 0 24) []
      ∧ ([] : List Addr).length ≤ start.cfg.chainIterCap :=
  ⟨by show _ = Config.chainEnd; decide, by decide⟩
theorem witness_ChainCyclesStop :
    let s := walking cycleMemory
    s.life ≠ .off ∧ 2 ≤ s.cfg.chainIterCap
      ∧ (0x100 : Word).extractLsb' 0 24 ≠ (0xFFFFFF : Addr)
      ∧ (0x100 : Word).extractLsb' 0 24 &&& s.cfg.addrMask = 0x100
      ∧ nodeInside s 0x100 ∧ nodeInside s 0x200
      ∧ headerNext (headerAt s 0x100) ≠ 0xFFFFFF
      ∧ headerNext (headerAt s 0x100) &&& s.cfg.addrMask = 0x200
      ∧ headerNext (headerAt s 0x200) ≠ 0xFFFFFF
      ∧ headerNext (headerAt s 0x200) &&& s.cfg.addrMask = 0x100
      ∧ s.outMode = .normal ∧ s.backend = [] :=
  by decide
theorem witness_ChainCyclesStop_self :
    let s := walking (memory [(0x40, 0x01000100)])
    s.life ≠ .off ∧ 2 ≤ s.cfg.chainIterCap
      ∧ (0x100 : Word).extractLsb' 0 24 ≠ (0xFFFFFF : Addr)
      ∧ (0x100 : Word).extractLsb' 0 24 &&& s.cfg.addrMask = 0x100
      ∧ nodeInside s 0x100 ∧ nodeInside s 0x100
      ∧ headerNext (headerAt s 0x100) ≠ 0xFFFFFF
      ∧ headerNext (headerAt s 0x100) &&& s.cfg.addrMask = 0x100
      ∧ headerNext (headerAt s 0x100) ≠ 0xFFFFFF
      ∧ headerNext (headerAt s 0x100) &&& s.cfg.addrMask = 0x100
      ∧ s.outMode = .normal ∧ s.backend = [] :=
  by decide
/-- A cycle of three nodes, the middle one without payload. -/
def ringMemory : Memory :=
  memory [(0x40, 0x01000200), (0x41, 0x0000000A), (0x80, 0x00000300), (0xC0, 0x01000100),
    (0xC1, 0x0000000C)]

theorem witness_ChainAtMostCap :
    let s := walking ringMemory
    s.life ≠ .off
      ∧ nodesFrom s s.cfg.chainIterCap ((0x100 : Word).extractLsb' 0 24) none none
        = [0x100, 0x200, 0x300, 0x100, 0x200]
      ∧ (∀ a ∈ [(0x100 : Addr), 0x200, 0x300, 0x100, 0x200], nodeInside s a)
      ∧ nextHas (exec (.chain 0x100) s) (fun _ => true) = true :=
  by
  refine ⟨by decide, by decide, fun a ha => ?_, by decide⟩
  simp only [List.mem_cons, List.not_mem_nil, or_false] at ha
  rcases ha with rfl | rfl | rfl | rfl | rfl <;> decide
theorem witness_ChainAtMostCap_ring :
    let s := walking ringMemory
    s.life ≠ .off ∧ 3 ≤ [(0x100 : Addr), 0x200, 0x300].length ∧ [(0x100 : Addr), 0x200, 0x300].Nodup
      ∧ chainLeads s ((0x100 : Word).extractLsb' 0 24) [0x100, 0x200, 0x300] 0x100
      ∧ (0x100 : Addr) ≠ 0xFFFFFF
      ∧ [(0x100 : Addr), 0x200, 0x300].head? = some (0x100 &&& s.cfg.addrMask) :=
  by
  refine ⟨by decide, by decide, by decide, ?_, by decide, by decide⟩
  exact ⟨by decide, by decide, by decide, by decide, by decide, by decide, by decide, by decide,
    by decide, by show headerNext _ = _; decide⟩
/-- R199 (d): a cycle of three runs round until the cap, here 5 visits. -/
theorem test_chain_ring :
    nextHas (exec (.chain 0x100) (walking ringMemory))
      (fun t => t.events == [.normalWord 0xA, .normalWord 0xC, .normalWord 0xA]) = true := by decide

theorem witness_ChainOutOfMemory :
    let s := { start with sysMem := memory [(0x7FFFF, 0x01FFFFFF)] }
    s.life ≠ .off ∧ 0 < s.cfg.chainIterCap
      ∧ (0x1FFFFC : Word).extractLsb' 0 24 ≠ (0xFFFFFF : Addr)
      ∧ ¬ nodeInside s ((0x1FFFFC : Word).extractLsb' 0 24 &&& s.cfg.addrMask)
      ∧ (0x1FFFFC : Addr) ≠ 0xFFFFFF
      ∧ s.cfg.memWords ≤ ((0x1FFFFC : Addr) &&& s.cfg.addrMask).toNat / 4 + (1 : BitVec 8).toNat :=
  by decide
/-- A chain whose second node runs past the end of memory by one word. -/
def lostMemory : Memory :=
  memory [(0x40, 0x011FFFFC), (0x41, 0x0000000A), (0x7FFFF, 0x01FFFFFF)]

theorem witness_ChainOutOfMemory_later :
    let s := walking lostMemory
    s.life ≠ .off ∧ 0 < s.cfg.chainIterCap
      ∧ nodesFrom s s.cfg.chainIterCap ((0x100 : Word).extractLsb' 0 24) none none
        = [0x100] ++ 0x1FFFFC :: []
      ∧ (∀ c ∈ [(0x100 : Addr)], nodeInside s c) ∧ ¬ nodeInside s 0x1FFFFC
      ∧ nextHas (exec (.wdm ([(0x100 : Addr)].flatMap (payloadAt s))) s) (fun _ => true) = true :=
  ⟨by decide, by decide, by decide, fun c hc => by rw [List.mem_singleton.1 hc]; decide, by decide,
    by decide⟩
theorem witness_ChainOutOfMemory_node :
    let s := walking lostMemory
    s.life ≠ .off ∧ (0x10 : Addr) ≠ 0xFFFFFF
      ∧ ((0x10 : Addr) &&& s.cfg.addrMask).toNat / 4 + (2 : BitVec 8).toNat < s.cfg.memWords
      ∧ nodesFrom s (s.cfg.chainIterCap - 1) 0x100 (some (0x10 &&& s.cfg.addrMask)) none
        = [0x100] ++ 0x1FFFFC :: []
      ∧ (∀ c ∈ [(0x100 : Addr)], nodeInside s c) ∧ ¬ nodeInside s 0x1FFFFC
      ∧ nextHas (exec (.wdm (nodePayload s (0x10 &&& s.cfg.addrMask) 2
        ++ [(0x100 : Addr)].flatMap (payloadAt s))) s) (fun _ => true) = true :=
  ⟨by decide, by decide, by decide, by decide, fun c hc => by rw [List.mem_singleton.1 hc]; decide,
    by decide, by decide⟩
/-- R82: a later node past the end of memory is refused. -/
theorem test_chain_off_memory :
    refusedAs (exec (.chain 0x100) (walking lostMemory)) .chainOutOfMemory = true := by decide

theorem witness_FreezeVersionMismatch :
    let s := withImage [(0, 2)] start
    s.life ≠ .off ∧ 1032 + s.cfg.vramKb * 2048 ≤ s.img.size ∧ readWord s.img.bytes 0 ≠ 1 :=
  by decide
theorem witness_FreezeGetWritesImage :
    let s := withImage [(0, 1)] start
    s.life ≠ .off ∧ 1032 + s.cfg.vramKb * 2048 ≤ s.img.size ∧ readWord s.img.bytes 0 = 1 :=
  by decide
theorem witness_FreezeSetCompletes :
    let s := withImage [(0, 1)] start
    s.life ≠ .off ∧ 1032 + s.cfg.vramKb * 2048 ≤ s.img.size ∧ readWord s.img.bytes 0 = 1
      ∧ paramsOk s.cfg = true ∧ s.cfg.ops.reset = 0 ∧ 8 < s.cfg.ops.gpuRequest.toNat
      ∧ ∀ k < 9, readWord s.img.bytes (8 + 4 * k) = 0 :=
  by decide +kernel
/-- An image each of whose replayed slots holds a word of its own opcode, but slot 6, which holds 0. -/
def fullImage : Memory :=
  [(0, 1), (15, 1), (19, 2), (23, 3), (27, 4), (31, 5), (39, 7), (43, 8)]

theorem witness_FreezeSetReplays :
    let s := withImage fullImage start
    s.life ≠ .off ∧ 1032 + s.cfg.vramKb * 2048 ≤ s.img.size ∧ readWord s.img.bytes 0 = 1
      ∧ ∀ k < 9, readWord s.img.bytes (8 + 4 * k) = 0
        ∨ (readWord s.img.bytes (8 + 4 * k) >>> 24).toNat = k :=
  by decide
theorem witness_FreezeInfoOtherShort :
    start.life ≠ .off ∧ start.img.size < 1032 + start.cfg.vramKb * 2048
      ∧ (3 : Word) ≠ 0 ∧ (3 : Word) ≠ 1 ∧ (3 : Word) ≠ 2 :=
  by decide
/-- A block whose control table holds, in each slot, a word of that slot's opcode. -/
def ownOpcodes : State :=
  { withImage [(0, 1)] start with ctl := Vector.ofFn fun k => BitVec.ofNat 32 (k.val * 2 ^ 24) }

theorem witness_SaveThenRestore :
    ownOpcodes.life ≠ .off ∧ 1032 + ownOpcodes.cfg.vramKb * 2048 ≤ ownOpcodes.img.size
      ∧ readWord ownOpcodes.img.bytes 0 = 1
      ∧ memBelow (ownOpcodes.cfg.vramKb * 2048) ownOpcodes.vram :=
  by decide
theorem witness_SaveThenRestore_table :
    ∀ k : Fin 9, (ownOpcodes.ctl[k.val] >>> 24).toNat = k.val := by decide +kernel
theorem witness_InitResult :
    let s := { start with life := .off }
    s.life = .off ∧ paramsOk s.cfgSource = true
      ∧ paramsOk { s.cfgSource with fixedFps := 0 } = false :=
  by decide +kernel
theorem witness_OpenCloseShutdown :
    start.life = .ready ∧ busyBlock.life = .opened
      ∧ { start with clock := ⟨0, [5]⟩ }.clock.ticks = 5 :: [] :=
  by decide
theorem witness_LifecycleRefusals :
    { start with life := .off }.life = .off ∧ start.life = .ready ∧ busyBlock.life = .opened :=
  by decide
theorem witness_VsyncFrame : busyBlock.life = .opened := by decide
theorem witness_VsyncAllOff :
    busyBlock.life = .opened ∧ busyBlock.cfg.frameLimitEnabled = false
      ∧ busyBlock.cfg.frameSkipEnabled = false ∧ busyBlock.cfg.fpsDisplayEnabled = false :=
  by decide
/-- The limiting block: the reading meets the threshold, or comes one tick before it. -/
def limiting (threshold : Nat) : State :=
  under (fun p => { p with frameLimitEnabled := true })
    { busyBlock with ft := { busyBlock.ft with nextUpdate := threshold } }

theorem witness_VsyncLimits_behind :
    let s := limiting 1020
    s.life = .opened ∧ s.cfg.frameLimitEnabled = true ∧ s.cfg.frameSkipEnabled = false
      ∧ s.cfg.fpsDisplayEnabled = false ∧ s.clock.ticks = 20 :: [5]
      ∧ s.ft.nextUpdate ≤ s.clock.now + 20 :=
  by decide
theorem witness_VsyncLimits_ahead :
    let s := limiting 1021
    s.life = .opened ∧ s.clock.ticks = 20 :: ([] ++ 5 :: [])
      ∧ s.clock.now + 20 + ([] : List Nat).sum < s.ft.nextUpdate
      ∧ s.ft.nextUpdate ≤ s.clock.now + 20 + ([] : List Nat).sum + 5 :=
  by decide
/-- The block that skips, limits and measures: the `n`th vsync since the counter was cleared. -/
def skipping (n threshold : Nat) : State :=
  under (fun p => { p with frameSkipEnabled := true, frameLimitEnabled := true, ecoMode := true })
    { busyBlock with
      ft := { busyBlock.ft with nextUpdate := threshold, laceCount := n - 1 }
      clock := ⟨1000, [20, 5, 7]⟩ }

/-- In frame-skip mode the fifteenth vsync does not limit. -/
theorem witness_VsyncMeasuresAndSkips_not_limiting :
    let s := skipping 15 1020
    limitTakes s 1000 [20, 5, 7] 1020 [] ∧ s.life = .opened ∧ s.cfg.frameSkipEnabled = true
      ∧ s.ft.lastMeasure < 1000 + 20
      ∧ s.ft.lastDisplay ≤ 1000 + 20 :=
  by
  refine ⟨.inl ⟨?_, rfl, rfl, rfl, rfl⟩, by decide, by decide, by decide, by decide⟩
  rintro ⟨-, h⟩
  exact absurd (h rfl) (by decide)
/-- The sixteenth one does. -/
theorem witness_VsyncMeasuresAndSkips_behind :
    let s := skipping 16 1020
    limitTakes s 1020 [5, 7] 1036 [] ∧ s.life = .opened ∧ s.cfg.frameSkipEnabled = true
      ∧ s.ft.lastMeasure < 1020 + 5
      ∧ s.ft.lastDisplay ≤ 1020 + 5 :=
  
  ⟨.inr (.inl ⟨⟨by decide, fun _ => by decide⟩, 20, rfl, by decide, by decide,
      by decide +kernel, rfl⟩),
    by decide, by decide, by decide, by decide⟩
theorem witness_VsyncMeasuresAndSkips_ahead :
    let s := skipping 16 1025
    limitTakes s 1025 [7] 1041 [.sleep 1] ∧ s.life = .opened ∧ s.cfg.frameSkipEnabled = true
      ∧ s.ft.lastMeasure < 1025 + 7
      ∧ s.ft.lastDisplay ≤ 1025 + 7 :=
  
  ⟨.inr (.inr ⟨⟨by decide, fun _ => by decide⟩, 20, [], 5, rfl, by decide, by decide, by decide,
      by decide +kernel, by decide +kernel⟩),
    by decide, by decide, by decide, by decide⟩
/-- R258: limiting begins with the sixteenth vsync of frame-skip mode. -/
theorem test_vsync_sixteenth :
    nextHas (exec .vsync (skipping 15 1025))
        (fun t => t.ft.nextUpdate == 1025 && t.clock.now == 1020) = true
      ∧ nextHas (exec .vsync (skipping 16 1025))
        (fun t => t.ft.nextUpdate == 1041 && t.clock.now == 1032) = true := by decide +kernel
/-- D37: halves are rounded away from zero. -/
theorem test_round_half :
    roundHalfAway (5 / 2) = 3 ∧ roundHalfAway (-5 / 2) = -3 ∧ roundHalfAway (1 / 3) = 0 := by
  decide +kernel

theorem witness_FramesToSkipAtMostTwo :
    let s := under (fun p => { p with frameSkipEnabled := true }) busyBlock
    Machine.Inv s ∧ s.life = .opened ∧ s.cfg.frameSkipEnabled = true :=
  ⟨{ busyBlock_inv with
      geoOk := { busyBlock_inv.geoOk with }
      params := fun _ => by decide +kernel
      rates := fun _ => ⟨by decide +kernel, rfl, by decide +kernel, by decide +kernel⟩ },
    by decide, by decide⟩
theorem witness_StateOwners : nextHas (exec .kick busyBlock) (fun _ => true) = true := by decide

end Sys2Proof.Tests
end

/-! PROOFS. The status read `RS` (40_status_port.md R132 to R136): its step, and when each of its two
read-time side effects is idle. -/

namespace Sys2Proof.Machine

/-! ## The two side effects, when idle and what they leave alone -/

theorem fakeBusy_of_busy_zero {s : State} (h : s.busy = 0) : fakeBusy s = s := if_pos h

theorem oddEvenRead_of_fix_off {s : State} (h : s.cfg.fixOddEvenBit = false) :
    oddEvenRead s = s := by
  simp [oddEvenRead, h]

@[simp] theorem fakeBusy_cfg (s : State) : (fakeBusy s).cfg = s.cfg := by rw [fakeBusy_frame]
@[simp] theorem fakeBusy_rdcnt (s : State) : (fakeBusy s).rdcnt = s.rdcnt := by rw [fakeBusy_frame]
@[simp] theorem oddEvenRead_busy (s : State) : (oddEvenRead s).busy = s.busy := by
  rw [oddEvenRead_frame]

/-! ## The status read -/

/-- R132 in a live state: the sample is taken between the two side effects. -/
theorem exec_rs_of_alive {s : State} (h : s.life ≠ .off) :
    exec .rs s = .next (reply (.word (fakeBusy s).stat) (oddEvenRead (fakeBusy s))) := by
  have hexec : exec .rs s = execRs s := rfl
  simp only [hexec, execRs, whenAlive_of_alive h, statRaw]

/-- Settles O23, from the step of `RS`: a count of 0 leaves only the odd/even step, the fix being off
leaves only the fake-busy step, and both together leave nothing but the answer. -/
theorem statusReadIsPure : Obligations.StatusReadIsPure := by
  intro s hlife
  refine ⟨_, exec_rs_of_alive hlife, fun hbusy => ?_, fun hfix => ?_, fun hbusy hfix => ?_⟩
  · have hidle := fakeBusy_of_busy_zero hbusy
    simp [hidle, hbusy]
  · have hoff : oddEvenRead (fakeBusy s) = fakeBusy s := oddEvenRead_of_fix_off (by simpa using hfix)
    simp [hoff]
  · rw [fakeBusy_of_busy_zero hbusy, oddEvenRead_of_fix_off hfix, reply]

end Sys2Proof.Machine

/-! PROOFS. The move of a cursor past one cell (41_vram_transfer.md R164): its two cases as one
equation, and when the window is exhausted. -/

namespace Sys2Proof.Machine

/-- The two cases of a step, inside a row and at its end, as one equation. -/
theorem stepCursor_eq_ite {p : Params} {c : Cursor} (h : cursorLegal p c = true) :
    stepCursor p.vramCells c =
      if c.rr = 1 then
        { c with cur := (c.cur + 1 + (1024 - c.w)) % p.vramCells, rr := c.w, rc := c.rc - 1 }
      else { c with cur := (c.cur + 1) % p.vramCells, rr := c.rr - 1 } := by
  split
  case isTrue hend => exact stepCursor_rowEnd h hend
  case isFalse hinside => exact stepCursor_inside h hinside

/-- A legal cursor has a row left. -/
theorem cursorLegal_rc_ne_zero {p : Params} {c : Cursor} (h : cursorLegal p c = true) :
    c.rc ≠ 0 := by
  obtain ⟨-, -, -, -, -, -, hrc, -, -⟩ := (cursorLegal_iff p c).1 h
  exact Nat.one_le_iff_ne_zero.1 hrc

/-- A step leaves a legal cursor exactly when it leaves a row. -/
theorem stepCursor_legal_iff {p : Params} {c : Cursor} (h : cursorLegal p c = true) :
    cursorLegal p (stepCursor p.vramCells c) = true ↔ (stepCursor p.vramCells c).rc ≠ 0 :=
  ⟨cursorLegal_rc_ne_zero, (stepCursor_legal h).2.resolve_left⟩

/-- Settles O28, from the equation of the step and its exhaustion test; the statement writes
`VRAM_CELLS` out as its definition does. -/
theorem stepCursorRule : Obligations.StepCursorRule :=
  fun _ _ h => ⟨stepCursor_eq_ite h, stepCursor_legal_iff h⟩

end Sys2Proof.Machine

/-! PROOFS. The versioned freeze modes, GET and SET (43_freeze_lifecycle.md R211, R212, R214): the
four requests that select them, and what a version other than 1 leaves of them. -/

namespace Sys2Proof.Machine

theorem freezeByMode_one : freezeByMode 1 = versionedMode freezeGet := rfl

theorem freezeByMode_zero : freezeByMode 0 = versionedMode freezeSet := rfl

/-- R212: each spelling of GET and SET is the versioned mode of its own work, in a live state. -/
theorem exec_getSet_versioned (s : State) :
    ∀ i ∈ [Instr.frzGet, .frzSet, .frz 1, .frz 0],
      ∃ work : State → State, exec i s = whenAlive s (versionedMode work) := by
  intro i hi
  simp only [List.mem_cons, List.not_mem_nil, or_false] at hi
  obtain rfl | rfl | rfl | rfl := hi
  · exact ⟨freezeGet, rfl⟩
  · exact ⟨freezeSet, rfl⟩
  · exact ⟨freezeGet, congrArg (whenAlive s) freezeByMode_one⟩
  · exact ⟨freezeSet, congrArg (whenAlive s) freezeByMode_zero⟩

/-- R211 and R119: the header, then `vramKb` kilo-cells of 2 bytes. -/
theorem imageBytes_eq (p : Params) : imageBytes p = 1032 + p.vramKb * 2048 := by
  simp only [imageBytes, vramOffset, Params.vramBytes]
  omega

/-- R211: an image large enough passes the size test. -/
theorem needImage_of_le {size : Nat} {s : State} (h : size ≤ s.img.size) (k : State → Res State) :
    needImage size s k = k s := if_pos h

/-- R214: whatever the mode's work is, another version skips it and answers 0. -/
theorem versionedMode_of_version_ne {s : State} (hsize : imageBytes s.cfg ≤ s.img.size)
    (hversion : readWord s.img.bytes 0 ≠ Config.freezeVersion) (work : State → State) :
    versionedMode work s = .next (reply (.code 0) s) := by
  rw [versionedMode, needImage_of_le hsize, if_neg hversion]

/-- Settles O46: GET and SET run only through the versioned mode, whose version test fails here. -/
theorem freezeVersionMismatch : Obligations.FreezeVersionMismatch := by
  intro s hlife hsize hversion i hi
  obtain ⟨work, hexec⟩ := exec_getSet_versioned s i hi
  rw [← imageBytes_eq] at hsize
  calc exec i s = whenAlive s (versionedMode work) := hexec
    _ = versionedMode work s := whenAlive_of_alive hlife _
    _ = .next { s with answer := .code 0 } := versionedMode_of_version_ne hsize hversion work

end Sys2Proof.Machine

/-! PROOFS. No cursor escapes VRAM (60_exceptions.md R273): every transaction, run from a state with
the invariant, meets no defect and completes only in a state with the invariant, whose cursors are idle
or inside their bounds. -/

namespace Sys2Proof.Machine

/-! ## Outcomes without a defect -/

/-- What the outcome of a transaction must be so that no cursor escapes: never the defect, and a next
state only with the invariant. A refusal is safe. -/
structure SafeOutcome (o : Res State) : Prop where
  no_fault : ∀ f : Fault, o ≠ .fault f
  next_inv : ∀ t : State, o = .next t → Inv t

theorem SafeOutcome.next {t : State} (h : Inv t) : SafeOutcome (.next t) :=
  ⟨fun _ => nofun, fun _ ht => Host.Outcome.next.inj ht ▸ h⟩

theorem SafeOutcome.refused (r : Refusal) : SafeOutcome (.refused r) :=
  ⟨fun _ => nofun, fun _ => nofun⟩

/-- The lifecycle guard of most transactions only adds a refusal. -/
theorem SafeOutcome.whenAlive {s : State} {k : State → Res State} (hk : SafeOutcome (k s)) :
    SafeOutcome (whenAlive s k) where
  no_fault f hf := hk.no_fault f (whenAlive_eq_fault.1 hf).2
  next_inv t ht := hk.next_inv t (whenAlive_eq_next.1 ht).2

/-- The guard for one lifecycle value lets the transaction rely on it. -/
theorem SafeOutcome.whenLife {life : Life} {s : State} {k : State → Res State}
    (hk : s.life = life → SafeOutcome (k s)) : SafeOutcome (whenLife life s k) where
  no_fault f hf := (hk (whenLife_eq_fault.1 hf).1).no_fault f (whenLife_eq_fault.1 hf).2
  next_inv t ht := (hk (whenLife_eq_next.1 ht).1).next_inv t (whenLife_eq_next.1 ht).2

/-! ## The shared operations, from a state with the invariant -/

section Operations

variable {s : State}

theorem writeWord_safe (h : Inv s) (w : Word) : SafeOutcome (writeWord w s) :=
  ⟨writeWord_not_fault h, fun _ => writeWord_keeps_inv h⟩

theorem writeChunk_safe (h : Inv s) (ws : List Word) : SafeOutcome (writeChunk ws s) :=
  ⟨writeChunk_not_fault h, fun _ => writeChunk_keeps_inv h⟩

/-- A chunk read and whatever answer is made of it. -/
theorem readChunk_reply_safe (h : Inv s) (n : Nat) (answer : List Word × State → Answer) :
    SafeOutcome (andThen (readChunk n s) fun r => .next (reply (answer r) r.2)) where
  no_fault f hf := by
    obtain hread | ⟨_, -, hreply⟩ := andThen_eq_fault.1 hf
    · exact readChunk_not_fault h f hread
    · cases hreply
  next_inv t ht := by
    obtain ⟨⟨ws, u⟩, hread, hreply⟩ := andThen_eq_next.1 ht
    cases hreply
    exact (readChunk_keeps_inv h hread).of_same rfl

theorem readPort_safe (h : Inv s) : SafeOutcome (readPort s) := readChunk_reply_safe h 1 _

theorem execRdm_safe (h : Inv s) (n : Word) : SafeOutcome (execRdm n s) :=
  .whenAlive (readChunk_reply_safe h n.toNat fun r => .words r.1)

theorem runCall_safe (h : Inv s) (c : BackendCall) : SafeOutcome (runCall c s) :=
  ⟨runCall_not_fault c s, fun _ => runCall_keeps_inv h⟩

theorem chainWalk_safe (h : Inv s) (n : Nat) (k : Walk) : SafeOutcome (chainWalk n k s) :=
  ⟨chainWalk_not_fault n h, fun _ => chainWalk_keeps_inv h⟩

theorem walkFromHeader_safe (h : Inv s) (node : Addr) (hdr : Word) :
    SafeOutcome (walkFromHeader node hdr s) :=
  ⟨walkFromHeader_not_fault h, fun _ => walkFromHeader_keeps_inv h⟩

theorem versionedMode_safe (h : Inv s) {work : State → State}
    (hwork : imageBytes s.cfg ≤ s.img.size → Inv (work s)) : SafeOutcome (versionedMode work s) :=
  ⟨versionedMode_not_fault work s, fun _ => versionedMode_keeps_inv h hwork⟩

theorem freezeInfoMode_safe (h : Inv s) : SafeOutcome (freezeInfoMode s) :=
  ⟨freezeInfoMode_not_fault s, fun _ => freezeInfoMode_keeps_inv h⟩

theorem freezeByMode_safe (h : Inv s) (mode : Word) : SafeOutcome (freezeByMode mode s) :=
  ⟨freezeByMode_not_fault mode s, fun _ => freezeByMode_keeps_inv h⟩

/-- R130: a status-port command stores its word, the first of its packet, and has its effect. -/
theorem command_safe (h : Inv s) {i : Instr}
    (hexec : exec i s = whenAlive s fun u =>
      .next (commandEffect i (storeCtl ((encode u.cfg i).headD 0) u))) :
    SafeOutcome (exec i s) := by
  rw [hexec]
  exact .whenAlive (.next (commandEffect_keeps_inv (storeCtl_keeps_inv h _) i))

theorem execRs_safe (h : Inv s) : SafeOutcome (execRs s) :=
  .whenAlive (.next ((oddEvenRead_keeps_inv (fakeBusy_keeps_inv h)).of_same rfl))

theorem execVsync_safe (h : Inv s) : SafeOutcome (execVsync s) :=
  .whenLife fun _ =>
    .next (presentOrSkip_keeps_inv (checkFrame_keeps_inv (oddEvenAtVsync_keeps_inv h)))

/-! ## The lifecycle -/

theorem execInit_safe (h : Inv s) (allocOk : Bool) : SafeOutcome (execInit allocOk s) := by
  refine .whenLife fun _ => ?_
  cases allocOk with
  | false => exact .next (h.of_same rfl)
  | true =>
    by_cases hparams : paramsOk s.cfgSource = true
    · simpa [hparams] using SafeOutcome.next (initEffect_keeps_inv h hparams)
    · simpa [hparams] using SafeOutcome.refused _

/-- R223: one reading is both the last one taken and the two times that the timer subtracts from it. -/
theorem execOpenPort_safe (h : Inv s) : SafeOutcome (execOpenPort s) := by
  unfold execOpenPort
  refine .whenLife fun hready => ?_
  have halive : s.life ≠ .off := by simp [hready]
  have hclock := readClock_spec (emit .apiSet { s with life := .opened })
  generalize readClock (emit .apiSet { s with life := .opened }) = reading at hclock ⊢
  obtain ⟨now, t⟩ := reading
  obtain ⟨-, hnow : t.clock.now = now, hframe : t = _⟩ := hclock
  refine .next ?_
  rw [hframe]
  exact { h with
    params := fun _ => h.params halive
    rates := fun _ => { h.rates halive with }
    measureOrder := fun _ => hnow.ge
    displayOrder := fun _ => hnow.ge }

theorem execClosePort_safe (h : Inv s) : SafeOutcome (execClosePort s) := by
  refine .whenLife fun hopened => .next ?_
  have halive : s.life ≠ .off := by simp [hopened]
  exact { h with
    params := fun _ => h.params halive
    rates := fun _ => h.rates halive
    measureOrder := nofun
    displayOrder := nofun }

theorem execShutdown_safe (h : Inv s) : SafeOutcome (execShutdown s) :=
  .whenLife fun _ => .next { h with
    params := fun halive => absurd rfl halive
    rates := fun halive => absurd rfl halive
    measureOrder := nofun
    displayOrder := nofun }

/-! ## Every transaction, and a step -/

/-- No transaction lets a cursor escape: one line for each kind of transaction. -/
theorem exec_safe (h : Inv s) (i : Instr) : SafeOutcome (exec i s) := by
  cases i with
  | wsReset | wsDisplay | wsMode | wsPos | wsHrange | wsVrange | wsInfo | wsReqTexwin
  | wsReqDrawstart | wsReqDrawend | wsReqDrawoffA | wsReqDrawoffB | wsReqGputype | wsReqBiosaddrA
  | wsReqBiosaddrB | wsReqOther | wsRaw01 | wsRaw02 | wsRaw => exact command_safe h rfl
  | rs => exact execRs_safe h
  | kick => exact .whenAlive (runCall_safe h .busyKick)
  | statSet m => exact .whenAlive (runCall_safe h (.statSet m))
  | statClr m => exact .whenAlive (runCall_safe h (.statClr m))
  | infoStore e v => exact .whenAlive (runCall_safe h (.infoStore e v))
  | areaIn => exact .whenAlive (runCall_safe h (.defineArea .input _ _ _ _))
  | areaOut => exact .whenAlive (runCall_safe h (.defineArea .output _ _ _ _))
  | rd | rdPixels | rdReply => exact .whenAlive (readPort_safe h)
  | rdm n => exact execRdm_safe h n
  | wdPixels | wdNormal => exact .whenAlive (writeWord_safe h _)
  | wd | wdm => exact .whenAlive (writeChunk_safe h _)
  | chain => exact .whenAlive (chainWalk_safe h _ _)
  | chainNode | chainEnd => exact .whenAlive (walkFromHeader_safe h _ _)
  | frz mode => exact .whenAlive (freezeByMode_safe h mode)
  | frzSet => exact .whenAlive (versionedMode_safe h fun _ => freezeSet_keeps_inv h)
  | frzGet => exact .whenAlive (versionedMode_safe h (freezeGet_keeps_inv h))
  | frzInfo => exact .whenAlive (freezeInfoMode_safe h)
  | frzOther => exact .whenAlive (.next (h.of_same rfl))
  | init allocOk => exact execInit_safe h allocOk
  | openPort => exact execOpenPort_safe h
  | closePort => exact execClosePort_safe h
  | shutdown => exact execShutdown_safe h
  | vsync => exact execVsync_safe h

/-- A transaction is taken with the invariant: only the queue and the outputs change. -/
theorem fetch_keeps_inv (h : Inv s) {i : Instr} {t : State} (ht : fetch s = .ok (some (i, t))) :
    Inv t := by
  unfold fetch at ht
  repeat' split at ht
  all_goals cases ht
  exact h.of_same rfl

theorem step_safe (h : Inv s) : SafeOutcome (step s) := by
  unfold step
  split
  next r _ => exact .refused r
  next => exact .next h
  next i t ht => exact exec_safe (fetch_keeps_inv h ht) i

end Operations

/-- R37: the index of an idle cursor is 0, that of a legal one is bounded. -/
theorem cursorOk_cur_lt {p : Params} {c : Cursor} (h : CursorOk p c) : c.cur < p.vramKb * 1024 := by
  obtain rfl | hlegal := h
  · have hrows : 512 ≤ p.vramKb := vramRows_pos p
    simp only [Cursor.idle]
    omega
  · obtain ⟨-, -, -, -, -, -, -, -, hcur⟩ := (cursorLegal_iff p c).1 hlegal
    exact hcur

/-- Settles O8: a step from the invariant meets no defect and ends with the invariant, whose two
cursors are inside VRAM. -/
theorem noCursorEscapes : Obligations.NoCursorEscapes := by
  intro s hinv
  have hsafe := step_safe hinv
  refine ⟨hsafe.no_fault, fun t ht => ?_⟩
  have ht_inv := hsafe.next_inv t ht
  exact ⟨cursorOk_cur_lt ht_inv.cinOk, cursorOk_cur_lt ht_inv.coutOk⟩

end Sys2Proof.Machine

/-! PROOFS. The machine's invariant at reset and over a step (10_state.md R36, R37, R41), the values
after reset (R47), and which transaction a step runs (20_memory.md R85, R89, R92). -/

namespace Sys2Proof.Machine

/-- Settles O6: every step from the invariant is a safe outcome, whose next state has it again. -/
theorem invKeptByStep : Obligations.InvKeptByStep :=
  fun _ t hinv ht => (step_safe hinv).next_inv t ht

/-- The default parameters are ones that `INIT` accepts. -/
theorem paramsOk_defaults : paramsOk (Params.defaults false) = true := by decide +kernel

/-- The geometry and the timer of the reset state are those of an `INIT` under the defaults. -/
theorem reset_geo : State.reset.geo = resetGeometry State.reset.cfg := rfl

theorem reset_rates : RatesOk State.reset.cfg State.reset.ft where
  target := rateOf_pos paramsOk_defaults _ _
  duration := rfl
  measured := by decide
  displayed := by decide

/-- Settles O7: memories, cursors and counters are empty at reset, and the parameters are the
defaults. -/
theorem invAtReset : Obligations.InvAtReset where
  vramWf := memWf_nil
  vramBelow := by simp [State.reset]
  sysMemWf := memWf_nil
  imgWf := memWf_nil
  imgBelow := by simp [State.reset]
  cinOk := .inl rfl
  coutOk := .inl rfl
  cinMode := fun harmed => absurd rfl harmed
  coutMode := fun harmed => absurd rfl harmed
  rdcntLe := by decide
  busyLe := by decide
  slotLe := by decide
  framesLe := by decide
  skipLe := by decide
  geoOk := reset_geo ▸ resetGeometry_ok _
  params := fun _ => paramsOk_defaults
  rates := fun _ => reset_rates
  measureOrder := nofun
  displayOrder := nofun

/-- R243 with the coarse clock: the period of the plain NTSC rate is 16 ticks. -/
theorem reset_targetDuration : State.reset.ft.targetDuration = 16 := by decide +kernel

/-- Settles O9: the reset state is a literal, and the period is computed from its rate. -/
theorem resetValues : Obligations.ResetValues := by
  refine ⟨rfl, rfl, fun k => ?_, rfl, rfl, rfl, rfl, rfl, rfl, fun _ => rfl, rfl, rfl, rfl, rfl,
    rfl, reset_targetDuration, rfl, rfl, rfl, rfl, rfl, rfl⟩
  exact Vector.getElem_replicate k.isLt

/-! ## Which transaction a step runs -/

section Step

variable {s : State} {r : Request} {rest : List Request}

theorem fetch_of_none (hq : s.requests = []) : fetch s = .ok none := by
  simp [fetch, hq]

theorem fetch_of_overlap (hq : s.requests = r :: rest) (ho : r.overlaps = true) :
    fetch s = .error .concurrentAccess := by
  simp [fetch, hq, ho]

theorem fetch_of_narrow (hq : s.requests = r :: rest) (ho : r.overlaps = false)
    (hw : r.accessBits ≠ 32) : fetch s = .error .narrowPortAccess := by
  simp [fetch, hq, ho, hw]

/-- A lone access of 32 bits is decoded, and its words alone decide. -/
theorem fetch_of_plain (hq : s.requests = r :: rest) (ho : r.overlaps = false)
    (hw : r.accessBits = 32) :
    fetch s = match decode s.cfg r.words with
      | .error e => .error (.undecodable e)
      | .ok i => .ok (some (i, { s with requests := rest, events := [], answer := .nothing })) := by
  simp only [fetch, hq, ho, hw]
  rfl

end Step

/-- Settles O4: the fetch takes the lone 32-bit request and hands its transaction to `exec`. -/
theorem stepRunsDecodedInstr : Obligations.StepRunsDecodedInstr := by
  intro s r rest i hq ho hw hdecode
  have hfetch := fetch_of_plain hq ho hw
  rw [hdecode] at hfetch
  rw [step, hfetch]

/-- Settles O5: each stop is the one the fetch names. -/
theorem stepStopsOrWaits : Obligations.StepStopsOrWaits := by
  intro s
  refine ⟨fun hq => ?_, fun r rest hq => ⟨fun ho => ?_, fun ho hw => ?_, fun e ho hw hdecode => ?_⟩⟩
  · rw [step, fetch_of_none hq]
  · rw [step, fetch_of_overlap hq ho]
  · rw [step, fetch_of_narrow hq ho hw]
  · have hfetch := fetch_of_plain hq ho hw
    rw [hdecode] at hfetch
    rw [step, hfetch]

end Sys2Proof.Machine

/-! PROOFS. Decoding and encoding are inverse (30_encoding.md sections 2 to 6): a packet that
decodes is the packet of its transaction, and a well-formed transaction is read back from its words
when the numbers of the opcodes and sub-codes are distinct. -/

namespace Sys2Proof

/-! ## Words put together from their fields -/

/-- The field below the bits that are already put together. -/
theorem append_field (w : Word) (s a b : Nat) {hi : BitVec a} (h : hi = w.extractLsb' (s + b) a) :
    hi ++ w.extractLsb' s b = w.extractLsb' s (a + b) :=
  h ▸ append_extract w s a b

section Words

variable {p : Params} {w : Word}

theorem resetWord_of_fields (hop : opcodeOf w = p.ops.reset) : resetWord p (paramOf w) = w :=
  (append_field w 0 8 24 hop.symm).trans (extract_all w)

theorem displayWord_of_fields (hop : opcodeOf w = p.ops.toggleDisplay) :
    displayWord p (w.extractLsb' 1 23) (w.extractLsb' 0 1) = w :=
  (append_field w 0 31 1 (append_field w 1 8 23 hop.symm)).trans (extract_all w)

theorem modeWord_of_fields (hop : opcodeOf w = p.ops.setTransferMode) :
    modeWord p (w.extractLsb' 2 22) (w.extractLsb' 0 2) = w :=
  (append_field w 0 30 2 (append_field w 2 8 22 hop.symm)).trans (extract_all w)

theorem posWord_of_fields (hop : opcodeOf w = p.ops.setDisplayPosition) :
    posWord p (w.extractLsb' 10 14) (w.extractLsb' 0 10) = w :=
  (append_field w 0 22 10 (append_field w 10 8 14 hop.symm)).trans (extract_all w)

theorem hrangeWord_of_fields (hop : opcodeOf w = p.ops.setDisplayWidth) :
    hrangeWord p (w.extractLsb' 12 12) (w.extractLsb' 0 12) = w :=
  (append_field w 0 20 12 (append_field w 12 8 12 hop.symm)).trans (extract_all w)

theorem vrangeWord_of_fields (hop : opcodeOf w = p.ops.setDisplayHeight) :
    vrangeWord p (w.extractLsb' 20 4) (w.extractLsb' 10 10) (w.extractLsb' 0 10) = w :=
  (append_field w 0 22 10 <| append_field w 10 12 10 <| append_field w 20 8 4 hop.symm).trans
    (extract_all w)

theorem infoWord_of_fields (hop : opcodeOf w = p.ops.setDisplayInfo) :
    infoWord p (w.extractLsb' 8 16) (w.extractLsb' 7 1) (w.extractLsb' 6 1) (w.extractLsb' 5 1)
      (w.extractLsb' 4 1) (w.extractLsb' 3 1) (w.extractLsb' 2 1) (w.extractLsb' 0 2) = w :=
  (append_field w 0 30 2 <| append_field w 2 29 1 <| append_field w 3 28 1 <|
    append_field w 4 27 1 <| append_field w 5 26 1 <| append_field w 6 25 1 <|
    append_field w 7 24 1 <| append_field w 8 8 16 hop.symm).trans (extract_all w)

theorem requestWord_of_fields {sub : BitVec 8} (hop : opcodeOf w = p.ops.gpuRequest)
    (hsub : w.extractLsb' 0 8 = sub) : requestWord p (w.extractLsb' 8 16) sub = w := by
  subst hsub
  exact (append_field w 0 24 8 (append_field w 8 8 16 hop.symm)).trans (extract_all w)

theorem rawWord_of_fields {op : BitVec 8} (hop : opcodeOf w = op) : rawWord op (paramOf w) = w :=
  hop ▸ opcode_append_param w

theorem hi_append_lo (w : Word) :
    (w.extractLsb' 16 16 ++ w.extractLsb' 0 16 : BitVec (16 + 16)) = w :=
  (append_extract w 0 16 16).trans (extract_all w)

end Words

/-! ## Every packet that decodes -/

/-- What a packet that decodes to `i` must be: `i` is a transaction, and the packet is its own. -/
def PacketOf (p : Params) (ws : List Word) (i : Instr) : Prop :=
  i.wellFormed p = true ∧ encode p i = ws

section Decode

variable {p : Params} {w : Word} {ops : List Word} {i j : Instr}

theorem alone_eq_ok : alone ops i = .ok j ↔ ops = [] ∧ i = j := by
  unfold alone
  split <;> simp_all

theorem bare_eq_ok : bare w ops i = .ok j ↔ w = 0 ∧ ops = [] ∧ i = j := by
  unfold bare
  split <;> simp_all [alone_eq_ok]

/-- R112: the row of a GpuRequest word is the first one whose sub-code the word holds. -/
theorem decodeRequest_packetOf (hop : opcodeOf w = p.ops.gpuRequest) :
    PacketOf p [w, 0] (decodeRequest p w) := by
  unfold decodeRequest
  extract_lets sub ignored
  have hword {c : BitVec 8} (hc : sub = c) : [requestWord p ignored c, 0] = [w, 0] := by
    rw [requestWord_of_fields hop hc]
  split_ifs with h1 h2 h3 h4 h5 h6 h7 h8
  · exact ⟨rfl, hword h1⟩
  · exact ⟨rfl, hword h2⟩
  · exact ⟨rfl, hword h3⟩
  · exact ⟨rfl, hword h4⟩
  · exact ⟨by simpa [Instr.wellFormed, ← h5] using h4, hword h5⟩
  · exact ⟨rfl, hword h6⟩
  · exact ⟨rfl, hword h7⟩
  · exact ⟨by simpa [Instr.wellFormed, ← h8] using h7, hword h8⟩
  · exact ⟨by simp [Instr.wellFormed, SubCodes.numbers, *], hword rfl⟩

/-- R131: every word written to the status port is the packet of a command. -/
theorem decodeStatus_packetOf (p : Params) (w : Word) : PacketOf p [w, 0] (decodeStatus p w) := by
  unfold decodeStatus
  extract_lets op
  have hop : opcodeOf w = op := rfl
  have hpacket {v : Word} (hv : v = w) : [v, (0 : Word)] = [w, 0] := by rw [hv]
  split_ifs with h1 h2 h3 h4 h5 h6 h7 h8 h9 h10
  · exact ⟨rfl, hpacket (resetWord_of_fields h1)⟩
  · exact ⟨rfl, hpacket (displayWord_of_fields h2)⟩
  · exact ⟨rfl, hpacket (modeWord_of_fields h3)⟩
  · exact ⟨rfl, hpacket (posWord_of_fields h4)⟩
  · exact ⟨rfl, hpacket (hrangeWord_of_fields h5)⟩
  · exact ⟨rfl, hpacket (vrangeWord_of_fields h6)⟩
  · exact ⟨rfl, hpacket (infoWord_of_fields h7)⟩
  · exact decodeRequest_packetOf h8
  all_goals
    have hfree : p.ops.numbers.contains op = false := by
      simp [Opcodes.numbers, h1, h2, h3, h4, h5, h6, h7, h8]
  · exact ⟨by simpa [Instr.wellFormed, ← h9] using hfree, hpacket (rawWord_of_fields h9)⟩
  · exact ⟨by simpa [Instr.wellFormed, ← h10] using hfree, hpacket (rawWord_of_fields h10)⟩
  · exact ⟨by simpa [Instr.wellFormed, h9, h10] using hfree, hpacket (rawWord_of_fields rfl)⟩

/-- R117: a header's next field says which of the two node forms it is. -/
theorem decodeHeader_packetOf {a : Word} (ha : a.extractLsb' 24 8 = 0) :
    PacketOf p [w, 5, a] (decodeHeader w (a.extractLsb' 0 24)) := by
  have hnode : nodeWord (a.extractLsb' 0 24) = a :=
    (append_field a 0 8 24 ha.symm).trans (extract_all a)
  unfold decodeHeader
  split
  case isTrue hend =>
    exact ⟨rfl, by simp only [encode, hnode, ← hend, header_append]⟩
  case isFalse hnext =>
    exact ⟨by simpa [Instr.wellFormed] using hnext, by simp only [encode, hnode, header_append]⟩

/-- R118: every mode word is the packet of a freeze. -/
theorem decodeMode_packetOf : PacketOf p [w, 6] (decodeMode w) := by
  unfold decodeMode
  split_ifs with h0 h1 h2
  · exact ⟨rfl, by rw [h0]; rfl⟩
  · exact ⟨rfl, by rw [h1]; rfl⟩
  · exact ⟨rfl, by rw [h2]; rfl⟩
  · exact ⟨by simpa [Instr.wellFormed, assignedModes] using ⟨h0, h1, h2⟩, rfl⟩

theorem decodeEntry_eq_some {e : Word} {r : RawEntry} (h : decodeEntry e = some r) :
    entryWord r = e := by
  unfold decodeEntry at h
  split_ifs at h with h0 h1 h2 h3 <;> cases h
  · exact h0.symm
  · exact h1.symm
  · exact h2.symm
  · exact h3.symm

/-- The forms without operand words, and those without any operand (log entry 3). -/
theorem packetOf_of_alone {sel : Word} (h : alone ops i = .ok j) (hi : PacketOf p [w, sel] i) :
    PacketOf p (w :: sel :: ops) j := by
  obtain ⟨rfl, rfl⟩ := alone_eq_ok.1 h
  exact hi

theorem packetOf_of_bare {sel : Word} (h : bare w ops i = .ok j) (hi : PacketOf p [0, sel] i) :
    PacketOf p (w :: sel :: ops) j := by
  obtain ⟨rfl, rfl, rfl⟩ := bare_eq_ok.1 h
  exact hi

/-- One line for each of the 25 selectors (log entry 3). -/
theorem decodeSelected_packetOf {n : Nat} (h : decodeSelected p n w ops = .ok j) :
    PacketOf p (w :: BitVec.ofNat 32 n :: ops) j := by
  unfold decodeSelected at h
  split at h
  next => exact packetOf_of_alone h (decodeStatus_packetOf p w)
  next => exact packetOf_of_alone h ⟨rfl, by rw [encode, hi_append_lo]; rfl⟩
  next => exact packetOf_of_alone h ⟨rfl, rfl⟩
  next => exact packetOf_of_bare h ⟨rfl, rfl⟩
  next => exact packetOf_of_bare h ⟨rfl, rfl⟩
  next =>
    split at h
    next a =>
      split at h
      case isTrue ha => cases h; exact decodeHeader_packetOf ha
      case isFalse => cases h
    next => cases h
    next => cases h
  next => exact packetOf_of_alone h decodeMode_packetOf
  next =>
    split_ifs at h with h0 h1
    · exact packetOf_of_alone h ⟨rfl, by rw [h0]; rfl⟩
    · exact packetOf_of_alone h ⟨rfl, by rw [h1]; rfl⟩
  next => exact packetOf_of_bare h ⟨rfl, rfl⟩
  next => exact packetOf_of_bare h ⟨rfl, rfl⟩
  next => exact packetOf_of_bare h ⟨rfl, rfl⟩
  next => exact packetOf_of_bare h ⟨rfl, rfl⟩
  next => exact packetOf_of_bare h ⟨rfl, rfl⟩
  next => exact packetOf_of_alone h ⟨rfl, rfl⟩
  next => exact packetOf_of_alone h ⟨rfl, rfl⟩
  next =>
    split at h
    case isTrue hlen =>
      cases h
      have hlt := w.isLt
      refine ⟨by simp only [Instr.wellFormed, decide_eq_true_eq]; omega, ?_⟩
      rw [encode, ← hlen, BitVec.ofNat_toNat, BitVec.setWidth_eq]
      rfl
    case isFalse => cases h
  next => exact packetOf_of_alone h ⟨rfl, rfl⟩
  next => exact packetOf_of_alone h ⟨rfl, rfl⟩
  next => exact packetOf_of_bare h ⟨rfl, rfl⟩
  next => split at h <;> cases h; exact ⟨rfl, rfl⟩
  next => split at h <;> cases h; exact ⟨rfl, rfl⟩
  next => exact packetOf_of_bare h ⟨rfl, rfl⟩
  next => exact packetOf_of_alone h ⟨rfl, rfl⟩
  next => exact packetOf_of_alone h ⟨rfl, rfl⟩
  next =>
    split at h
    next e =>
      split at h
      next entry hentry =>
        cases h
        exact ⟨rfl, by rw [encode, decodeEntry_eq_some hentry]; rfl⟩
      next => cases h
    next => cases h
    next => cases h
  next => cases h

end Decode

/-- Settles O2: a packet that decodes has a port word and a selector, and each selector's packets
are those of its transactions. -/
theorem encodeOfDecode : Obligations.EncodeOfDecode := by
  intro p ws i h
  match ws, h with
  | w :: sel :: ops, h =>
    have hpacket := decodeSelected_packetOf (show decodeSelected p sel.toNat w ops = .ok i from h)
    rw [BitVec.ofNat_toNat, BitVec.setWidth_eq] at hpacket
    exact hpacket

/-! ## Every well-formed transaction -/

section Encode

variable {p : Params} {w : Word} {i : Instr}

/-- What the packet of `i` must decode to. -/
def ReadBack (p : Params) (i : Instr) : Prop := decode p (encode p i) = .ok i

/-- A status-port packet is read as the command of its word. -/
theorem readBack_of_decodeStatus (hpacket : encode p i = [w, 0]) (hword : decodeStatus p w = i) :
    ReadBack p i := by
  unfold ReadBack
  rw [hpacket, ← hword]
  rfl

/-! ### The opcode selects the command -/

theorem decodeStatus_of_reset (hop : opcodeOf w = p.ops.reset) :
    decodeStatus p w = .wsReset (paramOf w) := if_pos hop

section Opcodes

variable (hn : p.ops.numbers.Nodup)

include hn

theorem decodeStatus_of_toggleDisplay (hop : opcodeOf w = p.ops.toggleDisplay) :
    decodeStatus p w = .wsDisplay (w.extractLsb' 1 23) (w.extractLsb' 0 1) := by
  grind [decodeStatus, Opcodes.numbers]

theorem decodeStatus_of_setTransferMode (hop : opcodeOf w = p.ops.setTransferMode) :
    decodeStatus p w = .wsMode (w.extractLsb' 2 22) (w.extractLsb' 0 2) := by
  grind [decodeStatus, Opcodes.numbers]

theorem decodeStatus_of_setDisplayPosition (hop : opcodeOf w = p.ops.setDisplayPosition) :
    decodeStatus p w = .wsPos (w.extractLsb' 10 14) (w.extractLsb' 0 10) := by
  grind [decodeStatus, Opcodes.numbers]

theorem decodeStatus_of_setDisplayWidth (hop : opcodeOf w = p.ops.setDisplayWidth) :
    decodeStatus p w = .wsHrange (w.extractLsb' 12 12) (w.extractLsb' 0 12) := by
  grind [decodeStatus, Opcodes.numbers]

theorem decodeStatus_of_setDisplayHeight (hop : opcodeOf w = p.ops.setDisplayHeight) :
    decodeStatus p w
      = .wsVrange (w.extractLsb' 20 4) (w.extractLsb' 10 10) (w.extractLsb' 0 10) := by
  grind [decodeStatus, Opcodes.numbers]

theorem decodeStatus_of_setDisplayInfo (hop : opcodeOf w = p.ops.setDisplayInfo) :
    decodeStatus p w
      = .wsInfo (w.extractLsb' 8 16) (w.extractLsb' 7 1) (w.extractLsb' 6 1) (w.extractLsb' 5 1)
          (w.extractLsb' 4 1) (w.extractLsb' 3 1) (w.extractLsb' 2 1) (w.extractLsb' 0 2) := by
  grind [decodeStatus, Opcodes.numbers]

theorem decodeStatus_of_gpuRequest (hop : opcodeOf w = p.ops.gpuRequest) :
    decodeStatus p w = decodeRequest p w := by
  grind [decodeStatus, Opcodes.numbers]

end Opcodes

/-- An opcode outside the assigned ones goes to one of the three raw rows (R113). -/
theorem decodeStatus_of_unassigned (hop : opcodeOf w ∉ p.ops.numbers) :
    decodeStatus p w =
      if opcodeOf w = Config.opUnassigned1 then .wsRaw01 (paramOf w)
      else if opcodeOf w = Config.opUnassigned2 then .wsRaw02 (paramOf w)
      else .wsRaw (opcodeOf w) (paramOf w) := by
  simp only [Opcodes.numbers, List.mem_cons, List.not_mem_nil, or_false, not_or] at hop
  simp only [decodeStatus, hop, if_false]

/-! ### The sub-code selects the request -/

/-- The sub-codes apart, as `codesOk` has them: only the two of a pair with one meaning may be one
number. -/
structure SubCodesApart (r : SubCodes) : Prop where
  first : [r.texwin, r.drawstart, r.drawend, r.drawoffA, r.gputype, r.biosaddrA].Nodup
  second : [r.texwin, r.drawstart, r.drawend, r.drawoffB, r.gputype, r.biosaddrB].Nodup
  crossA : r.drawoffA ≠ r.biosaddrB
  crossB : r.drawoffB ≠ r.biosaddrA

theorem codesOk_apart (h : codesOk p = true) : p.ops.numbers.Nodup ∧ SubCodesApart p.reqs := by
  simp only [codesOk, Bool.and_eq_true, decide_eq_true_eq, bne_iff_ne] at h
  obtain ⟨⟨⟨⟨hops, hfirst⟩, hsecond⟩, hcrossA⟩, hcrossB⟩ := h
  exact ⟨hops, hfirst, hsecond, hcrossA, hcrossB⟩

/-- A request word is decoded by its sub-code. -/
theorem decodeStatus_requestWord (hn : p.ops.numbers.Nodup) (ignored : BitVec 16) (sub : BitVec 8) :
    decodeStatus p (requestWord p ignored sub) =
      if sub = p.reqs.texwin then .wsReqTexwin ignored
      else if sub = p.reqs.drawstart then .wsReqDrawstart ignored
      else if sub = p.reqs.drawend then .wsReqDrawend ignored
      else if sub = p.reqs.drawoffA then .wsReqDrawoffA ignored
      else if sub = p.reqs.drawoffB then .wsReqDrawoffB ignored
      else if sub = p.reqs.gputype then .wsReqGputype ignored
      else if sub = p.reqs.biosaddrA then .wsReqBiosaddrA ignored
      else if sub = p.reqs.biosaddrB then .wsReqBiosaddrB ignored
      else .wsReqOther ignored sub := by
  obtain ⟨hsub, hignored⟩ := requestWord_fields p ignored sub
  rw [decodeStatus_of_gpuRequest hn (opcodeOf_requestWord p ignored sub)]
  simp only [decodeRequest, hsub, hignored]

theorem decodeMode_of_other {mode : Word} (h : mode ∉ assignedModes) :
    decodeMode mode = .frzOther mode := by
  simp only [assignedModes, List.mem_cons, List.not_mem_nil, or_false, not_or] at h
  simp only [decodeMode, h, if_false]

theorem nodeWord_fields (node : Addr) :
    (nodeWord node).extractLsb' 24 8 = 0 ∧ (nodeWord node).extractLsb' 0 24 = node :=
  ⟨extract_append_top _ _, extract_append_low _ _⟩

/-- A node form is read back by its header's next field (R117). -/
theorem readBack_header {node : Addr} {hdr : Word} (hpacket : encode p i = [hdr, 5, nodeWord node])
    (hform : decodeHeader hdr node = i) : ReadBack p i := by
  obtain ⟨hhigh, hlow⟩ := nodeWord_fields node
  have hselected : decodeSelected p 5 hdr [nodeWord node] = .ok (decodeHeader hdr node) := by
    simp only [decodeSelected, hhigh, hlow, if_true]
  unfold ReadBack
  rw [hpacket, ← hform]
  exact hselected

theorem decodeEntry_entryWord (e : RawEntry) : decodeEntry (entryWord e) = some e := by
  cases e <;> rfl

theorem readBack_infoStore (e : RawEntry) (v : Word) : ReadBack p (.infoStore e v) := by
  have hselected : decodeSelected p 24 v [entryWord e] = .ok (.infoStore e v) := by
    simp only [decodeSelected, decodeEntry_entryWord]
  exact hselected

/-- A chunk's count word says its length, for a length that 32 bits can say (log entry 3). -/
theorem readBack_wdm {ws : List Word} (h : ws.length < 2 ^ 32) : ReadBack p (.wdm ws) := by
  have hcount : (BitVec.ofNat 32 ws.length).toNat = ws.length := Nat.mod_eq_of_lt h
  have hselected : decodeSelected p 15 (BitVec.ofNat 32 ws.length) ws = .ok (.wdm ws) := by
    simp only [decodeSelected, hcount, if_true]
  exact hselected

theorem readBack_wdPixels (hi lo : Half) : ReadBack p (.wdPixels hi lo) := by
  have hhi : (hi ++ lo : BitVec (16 + 16)).extractLsb' 16 16 = hi := extract_append_top hi lo
  have hlo : (hi ++ lo : BitVec (16 + 16)).extractLsb' 0 16 = lo := extract_append_low hi lo
  have hselected : decodeSelected p 1 (hi ++ lo) [] = .ok (.wdPixels hi lo) := by
    simp only [decodeSelected, alone, if_true]
    rw [hhi, hlo]
  exact hselected

/-- The packet of a well-formed command decodes to it, one line for each row of the table. -/
theorem readBack_of_wellFormed (hn : p.ops.numbers.Nodup) (hr : SubCodesApart p.reqs)
    (hwf : i.wellFormed p = true) : ReadBack p i := by
  obtain ⟨hfirst, hsecond, hcrossA, hcrossB⟩ := hr
  cases i with
  | wsReset param =>
    refine readBack_of_decodeStatus rfl ?_
    rw [decodeStatus_of_reset (opcodeOf_resetWord p param)]
    exact congrArg _ (paramOf_append _ _)
  | wsDisplay ignored off =>
    obtain ⟨hignored, hoff⟩ := displayWord_fields p ignored off
    refine readBack_of_decodeStatus rfl ?_
    rw [decodeStatus_of_toggleDisplay hn (opcodeOf_displayWord p ignored off), hignored, hoff]
  | wsMode ignored m =>
    obtain ⟨hignored, hm⟩ := modeWord_fields p ignored m
    refine readBack_of_decodeStatus rfl ?_
    rw [decodeStatus_of_setTransferMode hn (opcodeOf_modeWord p ignored m), hignored, hm]
  | wsPos yField x =>
    obtain ⟨hy, hx⟩ := posWord_fields p yField x
    refine readBack_of_decodeStatus rfl ?_
    rw [decodeStatus_of_setDisplayPosition hn (opcodeOf_posWord p yField x), hy, hx]
  | wsHrange right left =>
    obtain ⟨hright, hleft⟩ := hrangeWord_fields p right left
    refine readBack_of_decodeStatus rfl ?_
    rw [decodeStatus_of_setDisplayWidth hn (opcodeOf_hrangeWord p right left), hright, hleft]
  | wsVrange ignored bottom top =>
    obtain ⟨hignored, hbottom, htop⟩ := vrangeWord_fields p ignored bottom top
    refine readBack_of_decodeStatus rfl ?_
    rw [decodeStatus_of_setDisplayHeight hn (opcodeOf_vrangeWord p ignored bottom top), hignored,
      hbottom, htop]
  | wsInfo ignored ignored7 presetHi lace rgb24 pal dbl presetLo =>
    obtain ⟨h16, h7, h6, h5, h4, h3, h2, h0⟩ :=
      infoWord_fields p ignored ignored7 presetHi lace rgb24 pal dbl presetLo
    refine readBack_of_decodeStatus rfl ?_
    rw [decodeStatus_of_setDisplayInfo hn
      (opcodeOf_infoWord p ignored ignored7 presetHi lace rgb24 pal dbl presetLo), h16, h7, h6, h5,
      h4, h3, h2, h0]
  | wsReqTexwin | wsReqDrawstart | wsReqDrawend | wsReqDrawoffA | wsReqDrawoffB | wsReqGputype
  | wsReqBiosaddrA | wsReqBiosaddrB | wsReqOther =>
    refine readBack_of_decodeStatus rfl ?_
    rw [decodeStatus_requestWord hn]
    simp only [Instr.wellFormed, SubCodes.numbers, bne_iff_ne, Bool.not_eq_true',
      List.contains_eq_mem, decide_eq_false_iff_not, List.nodup_cons, List.mem_cons,
      List.not_mem_nil, or_false, not_or] at hwf hfirst hsecond
    grind
  | wsRaw01 param | wsRaw02 param =>
    refine readBack_of_decodeStatus rfl ?_
    rw [decodeStatus_of_unassigned (by simpa [Instr.wellFormed, opcodeOf_rawWord] using hwf),
      opcodeOf_rawWord, paramOf_rawWord]
    rfl
  | wsRaw op param =>
    simp only [Instr.wellFormed, Bool.not_eq_true', List.contains_eq_mem, decide_eq_false_iff_not,
      List.mem_append, List.mem_cons, List.not_mem_nil, or_false, not_or] at hwf
    obtain ⟨hfree, hone, htwo⟩ := hwf
    refine readBack_of_decodeStatus rfl ?_
    rw [decodeStatus_of_unassigned (by rwa [opcodeOf_rawWord]), opcodeOf_rawWord, paramOf_rawWord,
      if_neg hone, if_neg htwo]
  | wdPixels hi lo => exact readBack_wdPixels hi lo
  | chainNode node count next =>
    obtain ⟨hcount, hnext⟩ := headerWord_fields count next
    have hlast : next ≠ Config.chainEnd := by simpa [Instr.wellFormed] using hwf
    exact readBack_header rfl (by rw [decodeHeader, hcount, hnext, if_neg hlast])
  | chainEnd node count =>
    obtain ⟨hcount, hnext⟩ := headerWord_fields count Config.chainEnd
    exact readBack_header rfl (by rw [decodeHeader, hcount, hnext, if_pos rfl])
  | frzOther mode =>
    have hother : decodeMode mode = .frzOther mode :=
      decodeMode_of_other (by simpa [Instr.wellFormed] using hwf)
    exact congrArg Except.ok hother
  | init allocOk => cases allocOk <;> rfl
  | wdm ws => exact readBack_wdm (by simpa [Instr.wellFormed] using hwf)
  | infoStore e v => exact readBack_infoStore e v
  | wdNormal | rdPixels | rdReply | frzSet | frzGet | frzInfo | shutdown | openPort | closePort
  | rs | rd | rdm | wd | chain | frz | vsync | areaIn | areaOut | kick | statSet | statClr => rfl

end Encode

/-- Settles O1: distinct numbers lead every well-formed transaction's packet back to its row. -/
theorem decodeOfEncode : Obligations.DecodeOfEncode := by
  intro p i hcodes hwf
  obtain ⟨hops, hreqs⟩ := codesOk_apart hcodes
  exact readBack_of_wellFormed hops hreqs hwf

/-- Settles O3: each word is evaluated by the decoder. -/
theorem specWordsDecode : Obligations.SpecWordsDecode := by
  unfold Obligations.SpecWordsDecode
  decide

end Sys2Proof

/-! PROOFS. The status fields as words (10_state.md R30 to R34): writing, setting, clearing and
flipping a field of one bit, and which bits a field write leaves. -/

namespace Sys2Proof.Machine

section Fields

variable {l : StatLayout} {f : StatField} {v st : Word} {k : Nat}

theorem fieldMask_getLsbD (l : StatLayout) (f : StatField) (hk : k < 32) :
    (fieldMask l f).getLsbD k = decide (fieldLo l f ≤ k ∧ k < fieldLo l f + fieldWidth f) := by
  simp only [fieldMask, BitVec.getLsbD_shiftLeft, hk, decide_true, Bool.true_and,
    fieldOnes_getLsbD]
  by_cases hlo : fieldLo l f ≤ k
  · simp [hlo, Nat.not_lt.2 hlo, Nat.sub_lt_iff_lt_add' hlo]
  · simp [hlo, Nat.not_le.1 hlo]

/-- A field write leaves every bit outside the field. -/
theorem putField_getLsbD_outside (hout : k < fieldLo l f ∨ fieldLo l f + fieldWidth f ≤ k) :
    (putField l f v st).getLsbD k = st.getLsbD k := by
  by_cases hk : k < 32
  · rw [putField_getLsbD l f v st hk, if_neg (by omega)]
  · rw [BitVec.getLsbD_of_ge _ _ (by omega), BitVec.getLsbD_of_ge _ _ (by omega)]

/-- Two words agree outside a mask when they agree on every bit the mask leaves out. -/
theorem and_not_eq_iff {x y m : Word} :
    x &&& ~~~m = y &&& ~~~m ↔ ∀ k < 32, m.getLsbD k = false → x.getLsbD k = y.getLsbD k := by
  rw [BitVec.eq_of_getLsbD_eq_iff]
  refine forall₂_congr fun k hk => ?_
  simp only [BitVec.getLsbD_and, BitVec.getLsbD_not, hk, decide_true, Bool.true_and]
  cases m.getLsbD k <;> simp

/-- A field that has the given bits: a write of a value that fits ors the value in. -/
theorem putField_of_fits (hfits : v &&& fieldOnes f = v) :
    putField l f v st = (st &&& ~~~fieldMask l f) ||| v <<< fieldLo l f := by
  simp only [putField, statOr, statAndNot, hfits]

/-! ## Fields of one bit -/

theorem bitAt_getLsbD (n : Nat) (hk : k < 32) : (bitAt n).getLsbD k = decide (k = n) := by
  have hone : ∀ i, (1 : Word).getLsbD i = decide (i = 0) := by
    intro i
    cases i <;> simp [BitVec.getLsbD_one]
  simp only [bitAt, BitVec.getLsbD_shiftLeft, hk, hone]
  by_cases hn : k < n
  · simp [hn, Nat.ne_of_lt hn]
  · simp only [hn, decide_true, decide_false, Bool.not_false, Bool.true_and]
    exact decide_eq_decide.2 (by omega)

theorem fieldWidth_of_one (hone : fieldOnes f = 1) : fieldWidth f = 1 := by
  revert hone
  cases f <;> decide

variable (hone : fieldOnes f = 1)

include hone

theorem fieldMask_of_one : fieldMask l f = bitAt (fieldLo l f) := by
  rw [fieldMask, hone, bitAt]

theorem putField_bitWord (b : Bool) :
    putField l f (bitWord b) st
      = if b then st ||| bitAt (fieldLo l f) else st &&& ~~~bitAt (fieldLo l f) := by
  have hfits : bitWord b &&& fieldOnes f = bitWord b := by rw [hone]; cases b <;> decide
  rw [putField_of_fits hfits, fieldMask_of_one hone]
  cases b with
  | false => simp [bitWord]
  | true =>
    have hset : (st &&& ~~~bitAt (fieldLo l f)) ||| bitAt (fieldLo l f)
        = st ||| bitAt (fieldLo l f) := by
      rw [BitVec.eq_of_getLsbD_eq_iff]
      intro i hi
      simp only [BitVec.getLsbD_or, BitVec.getLsbD_and, BitVec.getLsbD_not, hi, decide_true,
        Bool.true_and]
      cases (bitAt (fieldLo l f)).getLsbD i <;> simp
    exact hset

theorem getField_eq_bitWord : getField l f st = bitWord (st.getLsbD (fieldLo l f)) := by
  rw [BitVec.eq_of_getLsbD_eq_iff]
  intro i _
  rw [getField_getLsbD, fieldWidth_of_one hone]
  cases i with
  | zero => cases st.getLsbD (fieldLo l f) <;> simp [bitWord]
  | succ i => cases st.getLsbD (fieldLo l f) <;> simp [bitWord, BitVec.getLsbD_one]

theorem getField_eq_one_iff : getField l f st = 1 ↔ st.getLsbD (fieldLo l f) = true := by
  rw [getField_eq_bitWord hone]
  cases st.getLsbD (fieldLo l f) <;> decide

/-- R135, R262: flipping a field of one bit is an exclusive or with its bit. -/
theorem flipField_eq : flipField l f st = st ^^^ bitAt (fieldLo l f) := by
  have hflip (b : Bool) : bitWord b ^^^ 1 = bitWord (!b) := by cases b <;> decide
  rw [flipField, getField_eq_bitWord hone, hflip, putField_bitWord hone,
    BitVec.eq_of_getLsbD_eq_iff]
  intro i hi
  have hbit := bitAt_getLsbD (fieldLo l f) hi
  by_cases hfield : i = fieldLo l f
  · subst hfield
    cases hst : st.getLsbD (fieldLo l f) <;> simp [-BitVec.getLsbD_eq_getElem, hi, hst, hbit]
  · cases st.getLsbD (fieldLo l f) <;> simp [-BitVec.getLsbD_eq_getElem, hi, hbit, hfield]

end Fields

end Sys2Proof.Machine

/-! PROOFS. The commands of the status port (40_status_port.md R130, R140 to R153): each stores its
word and has its effect, and what each effect leaves. -/

namespace Sys2Proof.Machine

/-! ## A command stores its word, then acts -/

/-- R130: `i` stores the first word of its packet and has its effect, in a live block. -/
def IsCommand (i : Instr) : Prop :=
  ∀ s : State, exec i s = whenAlive s fun u =>
    .next (commandEffect i (storeCtl ((encode u.cfg i).headD 0) u))

theorem storeCtl_of_opcode {w : Word} {op : BitVec 8} (hop : opcodeOf w = op) (s : State) :
    storeCtl w s = { s with ctl := s.ctl.set op.toNat w op.isLt } := by
  subst hop
  rfl

theorem exec_command {i : Instr} {s : State} {w : Word} {op : BitVec 8} (hi : IsCommand i)
    (halive : s.life ≠ .off) (hword : encode s.cfg i = [w, 0]) (hop : opcodeOf w = op) :
    exec i s = .next (commandEffect i { s with ctl := s.ctl.set op.toNat w op.isLt }) := by
  rw [hi, whenAlive_of_alive halive, hword, List.headD_cons, storeCtl_of_opcode hop]

/-- Only commands come from the status port (R131). -/
theorem decodeRequest_isCommand (p : Params) (w : Word) : IsCommand (decodeRequest p w) := by
  unfold decodeRequest
  extract_lets sub ignored
  split_ifs <;> exact fun _ => rfl

theorem decodeStatus_isCommand (p : Params) (w : Word) : IsCommand (decodeStatus p w) := by
  unfold decodeStatus
  extract_lets op
  split_ifs
  any_goals exact fun _ => rfl
  exact decodeRequest_isCommand p w

/-- R130: a status-port write, as one transaction, is the store and the dispatch that a replay
makes. -/
theorem exec_decodeStatus {s : State} (halive : s.life ≠ .off) (w : Word) :
    exec (decodeStatus s.cfg w) s = .next (writeStatus w s) := by
  have hword : encode s.cfg (decodeStatus s.cfg w) = [w, 0] := (decodeStatus_packetOf s.cfg w).2
  exact exec_command (decodeStatus_isCommand s.cfg w) halive hword rfl

/-- What a status-port write leaves beside its table entry (40_status_port.md section 5). -/
theorem writeStatus_frame (w : Word) (s : State) : CommandFrame (storeCtl w s) (writeStatus w s) :=
  commandEffect_frame _ _

theorem decode_status (p : Params) (w : Word) : decode p [w, 0] = .ok (decodeStatus p w) := rfl

/-- Settles O10: the step decodes the word to a command, which completes and returns nothing. -/
theorem everyStatusWordIsACommand : Obligations.EveryStatusWordIsACommand := by
  intro w s rest halive hq
  have hstep := stepRunsDecodedInstr s (plainRequest [w, 0]) rest _ hq rfl rfl (decode_status _ w)
  let u : State := { s with requests := rest, events := [], answer := .nothing }
  have hframe : CommandFrame (storeCtl w u) (writeStatus w u) := writeStatus_frame w u
  exact ⟨writeStatus w u, hstep.trans (exec_decodeStatus (s := u) halive w),
    congrArg State.answer hframe, congrArg State.requests hframe⟩

/-! ## What each command writes of `STAT` -/

/-- The status word that a command leaves. -/
def commandStat (l : StatLayout) (i : Instr) (st : Word) : Word :=
  match i with
  | .wsReset _ => Config.statInit
  | .wsDisplay _ off => putField l .displayDisabled (bitWord (bitSet off)) st
  | .wsMode _ m => putField l .dmaDirection (m.setWidth 32) st
  | .wsInfo _ _ presetHi lace rgb24 pal dbl presetLo =>
    infoStat l (presetOf presetHi presetLo) lace rgb24 pal dbl st
  | _ => st

theorem commandEffect_stat (i : Instr) (s : State) :
    (commandEffect i s).stat = commandStat s.cfg.statLayout i s.stat := by
  cases i with
  | wsDisplay _ off => exact congrArg State.stat (displayEffect_frame off s)
  | wsMode _ m => exact congrArg State.stat (modeEffect_frame m s)
  | wsVrange _ bottom top => rw [commandEffect, vrangeEffect_frame]; rfl
  | wsInfo _ _ presetHi lace rgb24 pal dbl presetLo =>
    exact congrArg State.stat (infoEffect_frame _ lace rgb24 pal dbl s)
  | _ => rfl

/-- The bits that a SetDisplayInfo writes. -/
def infoMask (l : StatLayout) : Word :=
  fieldMask l .interlaced ||| fieldMask l .rgb24 ||| fieldMask l .pal ||| fieldMask l .doubleHeight
    ||| fieldMask l .widthBits

/-- The bits of `STAT` that a command may write. -/
def commandMask (l : StatLayout) : Instr → Word
  | .wsReset _ => 0xFFFFFFFF
  | .wsDisplay _ _ => fieldMask l .displayDisabled
  | .wsMode _ _ => fieldMask l .dmaDirection
  | .wsInfo _ _ _ _ _ _ _ _ => infoMask l
  | _ => 0

theorem putField_outside (l : StatLayout) (f : StatField) (v st : Word) {k : Nat} (hk : k < 32)
    (hm : (fieldMask l f).getLsbD k = false) : (putField l f v st).getLsbD k = st.getLsbD k := by
  refine putField_getLsbD_outside ?_
  rw [fieldMask_getLsbD l f hk, decide_eq_false_iff_not] at hm
  omega

theorem infoStat_outside (l : StatLayout) (preset : BitVec 3) (lace rgb24 pal dbl : BitVec 1)
    (st : Word) {k : Nat} (hk : k < 32) (hm : (infoMask l).getLsbD k = false) :
    (infoStat l preset lace rgb24 pal dbl st).getLsbD k = st.getLsbD k := by
  simp only [infoMask, BitVec.getLsbD_or, Bool.or_eq_false_iff] at hm
  obtain ⟨⟨⟨⟨hlace, hrgb24⟩, hpal⟩, hdbl⟩, hwidth⟩ := hm
  rw [infoStat, putField_outside _ _ _ _ hk hlace, putField_outside _ _ _ _ hk hrgb24,
    putField_outside _ _ _ _ hk hpal, putField_outside _ _ _ _ hk hdbl,
    putField_outside _ _ _ _ hk hwidth]

theorem commandStat_outside (l : StatLayout) (i : Instr) (st : Word) {k : Nat} (hk : k < 32)
    (hm : (commandMask l i).getLsbD k = false) :
    (commandStat l i st).getLsbD k = st.getLsbD k := by
  cases i with
  | wsReset _ =>
    have hall : (BitVec.allOnes 32).getLsbD k = false := hm
    rw [BitVec.getLsbD_allOnes, decide_eq_false_iff_not] at hall
    exact absurd hk hall
  | wsDisplay _ off => exact putField_outside l .displayDisabled _ st hk hm
  | wsMode _ m => exact putField_outside l .dmaDirection _ st hk hm
  | wsInfo _ _ _ _ _ _ _ _ => exact infoStat_outside l _ _ _ _ _ st hk hm
  | _ => rfl

/-! ## What a command writes elsewhere -/

/-- Only a Reset writes a cursor or the raw-info table (R141). -/
theorem commandEffect_keeps_cursors {i : Instr} (hi : ∀ param, i ≠ .wsReset param) (s : State) :
    (commandEffect i s).cin = s.cin ∧ (commandEffect i s).cout = s.cout
      ∧ (commandEffect i s).info = s.info := by
  cases i with
  | wsReset param => exact absurd rfl (hi param)
  | wsDisplay _ off => rw [commandEffect, displayEffect_frame]; exact ⟨rfl, rfl, rfl⟩
  | wsMode _ m => rw [commandEffect, modeEffect_frame]; exact ⟨rfl, rfl, rfl⟩
  | wsVrange _ bottom top => rw [commandEffect, vrangeEffect_frame]; exact ⟨rfl, rfl, rfl⟩
  | wsInfo _ _ _ _ _ _ _ _ => rw [commandEffect, infoEffect_frame]; exact ⟨rfl, rfl, rfl⟩
  | _ => exact ⟨rfl, rfl, rfl⟩

/-- Only a Reset and a SetTransferMode write a mode (R141, R143). -/
theorem commandEffect_keeps_modes {i : Instr} (hreset : ∀ param, i ≠ .wsReset param)
    (hmode : ∀ ignored m, i ≠ .wsMode ignored m) (s : State) :
    (commandEffect i s).inMode = s.inMode ∧ (commandEffect i s).outMode = s.outMode := by
  cases i with
  | wsReset param => exact absurd rfl (hreset param)
  | wsMode ignored m => exact absurd rfl (hmode ignored m)
  | wsDisplay _ off => rw [commandEffect, displayEffect_frame]; exact ⟨rfl, rfl⟩
  | wsVrange _ bottom top => rw [commandEffect, vrangeEffect_frame]; exact ⟨rfl, rfl⟩
  | wsInfo _ _ _ _ _ _ _ _ => rw [commandEffect, infoEffect_frame]; exact ⟨rfl, rfl⟩
  | _ => exact ⟨rfl, rfl⟩

/-! ## Which command a word is -/

section Decoded

variable {p : Params} {w : Word}

/-- The word of a decoded command is the first of its packet. -/
theorem decodeStatus_word {i : Instr} {v : Word} (hi : decodeStatus p w = i)
    (hv : encode p i = [v, 0]) : v = w := by
  have hpacket : encode p (decodeStatus p w) = [w, 0] := (decodeStatus_packetOf p w).2
  rw [hi, hv] at hpacket
  exact List.head_eq_of_cons_eq hpacket

theorem decodeStatus_ne_reset (hop : opcodeOf w ≠ p.ops.reset) (param : BitVec 24) :
    decodeStatus p w ≠ .wsReset param := by
  intro hi
  rw [← decodeStatus_word hi rfl] at hop
  exact hop (opcodeOf_resetWord p param)

theorem decodeStatus_ne_mode (hop : opcodeOf w ≠ p.ops.setTransferMode) (ignored : BitVec 22)
    (m : BitVec 2) : decodeStatus p w ≠ .wsMode ignored m := by
  intro hi
  rw [← decodeStatus_word hi rfl] at hop
  exact hop (opcodeOf_modeWord p ignored m)

/-- Only a GpuRequest writes the latch (R148). -/
theorem decodeStatus_keeps_gdata (hop : opcodeOf w ≠ p.ops.gpuRequest) (s : State) :
    (commandEffect (decodeStatus p w) s).gdata = s.gdata := by
  have hrequest {ignored : BitVec 16} {sub : BitVec 8} (hw : requestWord p ignored sub = w) :
    False :=
    hop (hw ▸ opcodeOf_requestWord p ignored sub)
  cases hi : decodeStatus p w with
  | wsReqTexwin | wsReqDrawstart | wsReqDrawend | wsReqDrawoffA | wsReqDrawoffB | wsReqGputype
  | wsReqBiosaddrA | wsReqBiosaddrB => exact (hrequest (decodeStatus_word hi rfl)).elim
  | wsDisplay _ off => rw [commandEffect, displayEffect_frame]
  | wsMode _ m => rw [commandEffect, modeEffect_frame]
  | wsVrange _ bottom top => rw [commandEffect, vrangeEffect_frame]
  | wsInfo _ _ _ _ _ _ _ _ => rw [commandEffect, infoEffect_frame]
  | _ => rfl

theorem decodeRequest_mask (l : StatLayout) : commandMask l (decodeRequest p w) = 0 := by
  unfold decodeRequest
  extract_lets sub ignored
  split_ifs <;> rfl

/-- The bits that a word may write, by its opcode alone (40_status_port.md section 5). -/
def opcodeMask (p : Params) (l : StatLayout) (op : BitVec 8) : Word :=
  if op = p.ops.reset then 0xFFFFFFFF
  else if op = p.ops.toggleDisplay then bitAt l.displayDisabled
  else if op = p.ops.setTransferMode then (3 : Word) <<< l.dmaDirection
  else if op = p.ops.setDisplayInfo then
    bitAt l.interlaced ||| bitAt l.rgb24 ||| bitAt l.pal ||| bitAt l.doubleHeight
      ||| (7 : Word) <<< l.widthBits
  else 0

/-- A command may write no bit that its opcode does not own. -/
theorem commandMask_decodeStatus (l : StatLayout) {k : Nat}
    (hout : (opcodeMask p l (opcodeOf w)).getLsbD k = false) :
    (commandMask l (decodeStatus p w)).getLsbD k = false := by
  unfold opcodeMask at hout
  unfold decodeStatus
  extract_lets op
  split_ifs with hreset hdisplay hmode hpos hwidth hheight hinfo hrequest
  · rwa [if_pos hreset] at hout
  · rwa [if_neg hreset, if_pos hdisplay] at hout
  · rwa [if_neg hreset, if_neg hdisplay, if_pos hmode] at hout
  · exact BitVec.getLsbD_zero
  · exact BitVec.getLsbD_zero
  · exact BitVec.getLsbD_zero
  · rwa [if_neg hreset, if_neg hdisplay, if_neg hmode, if_pos hinfo] at hout
  · rw [decodeRequest_mask]
    exact BitVec.getLsbD_zero
  all_goals exact BitVec.getLsbD_zero

end Decoded

/-- Settles O11: the word decodes to a command, whose effect writes what the lemmas above say. -/
theorem commandWritesOwnFields : Obligations.CommandWritesOwnFields := by
  intro w s halive op l
  refine ⟨decodeStatus s.cfg w, writeStatus w s, rfl, exec_decodeStatus halive w,
    writeStatus_frame w s, fun hreset => ?_, fun hreset hmode => ?_, fun hrequest => ?_, ?_⟩
  · exact commandEffect_keeps_cursors (decodeStatus_ne_reset hreset) _
  · exact commandEffect_keeps_modes (decodeStatus_ne_reset hreset) (decodeStatus_ne_mode hmode) _
  · exact decodeStatus_keeps_gdata hrequest _
  · refine and_not_eq_iff.2 fun k hk hout => ?_
    rw [writeStatus, commandEffect_stat]
    exact commandStat_outside _ _ _ hk (commandMask_decodeStatus l hout)

end Sys2Proof.Machine

/-! PROOFS. The commands of the status port one by one (40_status_port.md R140 to R153), each as an
equation for the whole state. -/

namespace Sys2Proof.Machine

/-- Settles O12: the word is stored, and the reset effect is the statement's state. -/
theorem resetCommand : Obligations.ResetCommand :=
  fun param _ halive => exec_command (fun _ => rfl) halive rfl (opcodeOf_resetWord _ param)

theorem bitSet_eq_true_iff {b : BitVec 1} : bitSet b = true ↔ b = 1 := by simp [bitSet]

theorem bitSet_eq_false_iff {b : BitVec 1} : bitSet b = false ↔ b = 0 := by revert b; decide

/-- R147: an upload is asked for exactly when a disabled display is turned on at 15 bits. -/
theorem displayEffect_eq (off : BitVec 1) (s : State) :
    displayEffect off s = { s with
      stat := if off = 1 then s.stat ||| bitAt s.cfg.statLayout.displayDisabled
        else s.stat &&& ~~~bitAt s.cfg.statLayout.displayDisabled
      events := s.events ++
        if s.stat.getLsbD s.cfg.statLayout.displayDisabled = true ∧ off = 0
          ∧ s.geo.depth = .bits15 then [.uploadFullscreen] else [] } := by
  have hstat := putField_bitWord (l := s.cfg.statLayout) (f := .displayDisabled) (st := s.stat) rfl
    (bitSet off)
  simp only [bitSet_eq_true_iff] at hstat
  have hcond : ((getField s.cfg.statLayout .displayDisabled s.stat == 1 && !bitSet off
      && decide (s.geo.depth = .bits15)) = true)
      ↔ s.stat.getLsbD s.cfg.statLayout.displayDisabled = true ∧ off = 0
        ∧ s.geo.depth = .bits15 := by
    simp only [Bool.and_eq_true, beq_iff_eq, Bool.not_eq_true', bitSet_eq_false_iff,
      decide_eq_true_eq, and_assoc]
    rw [getField_eq_one_iff (f := .displayDisabled) rfl]
    rfl
  unfold displayEffect
  simp only [setField, setStat, emit, hstat, hcond, apply_ite, fieldLo]
  split <;> simp

/-- Settles O13: the word is stored, and the effect written out. -/
theorem toggleDisplayCommand : Obligations.ToggleDisplayCommand := by
  intro ignored off s halive op dd
  rw [exec_command (fun _ => rfl) halive rfl (opcodeOf_displayWord _ ignored off), commandEffect,
    displayEffect_eq]
  rfl

/-- Settles O14: the two bits fit their field, and the modes are those of the effect. -/
theorem setTransferModeCommand : Obligations.SetTransferModeCommand := by
  intro ignored m s halive op dir
  have hfits : m.setWidth 32 &&& fieldOnes .dmaDirection = m.setWidth 32 := by revert m; decide
  rw [exec_command (fun _ => rfl) halive rfl (opcodeOf_modeWord _ ignored m), commandEffect,
    modeEffect_frame]
  simp only [putField_of_fits hfits, or_comm (a := m = 2)]
  rfl

/-- Settles O15: ten bits of X are never past the last column. -/
theorem setDisplayPositionCommand : Obligations.SetDisplayPositionCommand := by
  intro yField x s halive op y
  have hx : min x.toNat 1023 = x.toNat := by have := x.isLt; omega
  rw [exec_command (fun _ => rfl) halive rfl (opcodeOf_posWord _ yField x), commandEffect,
    posEffect_frame]
  simp only [hx]
  rfl

/-- Settles O16: the word is stored, and the effect is the statement's state. -/
theorem setDisplayWidthCommand : Obligations.SetDisplayWidthCommand :=
  fun right left _ halive =>
    exec_command (fun _ => rfl) halive rfl (opcodeOf_hrangeWord _ right left)

/-- Settles O17: the effect makes the statement's case distinction. -/
theorem setDisplayHeightCommand : Obligations.SetDisplayHeightCommand := by
  intro ignored bottom top s halive op
  rw [exec_command (fun _ => rfl) halive rfl (opcodeOf_vrangeWord _ ignored bottom top),
    commandEffect, vrangeEffect]
  split <;> rfl

/-! ## SetDisplayInfo -/

/-- A value that fits one field has no bit in another. -/
theorem fits_and_not_mask {l : StatLayout} (hl : layoutOk l = true) {f g : StatField} (hfg : f ≠ g)
    {v : Word} (hfits : v &&& fieldOnes f = v) :
    v <<< fieldLo l f &&& ~~~fieldMask l g = v <<< fieldLo l f := by
  have hapart := layoutOk_disjoint hl hfg
  rw [← hfits, BitVec.eq_of_getLsbD_eq_iff]
  intro k hk
  simp only [BitVec.getLsbD_and, BitVec.getLsbD_not, BitVec.getLsbD_shiftLeft, hk,
    fieldMask_getLsbD l g hk, fieldOnes_getLsbD, decide_true, Bool.true_and]
  by_cases hin : ¬ k < fieldLo l f ∧ k - fieldLo l f < fieldWidth f
  · have hout : ¬ (fieldLo l g ≤ k ∧ k < fieldLo l g + fieldWidth g) := by omega
    simp [hout]
  · by_cases hlo : k < fieldLo l f
    · simp [hlo]
    · have hhi : ¬ k - fieldLo l f < fieldWidth f := fun h => hin ⟨hlo, h⟩
      simp [hhi]

theorem setWidth_fits (b : BitVec 1) : b.setWidth 32 &&& (1 : Word) = b.setWidth 32 := by
  revert b; decide

theorem bitWord_bitSet (b : BitVec 1) : bitWord (bitSet b) = b.setWidth 32 := by revert b; decide

/-- R42: the bits of the width preset, the low two above the high one. -/
theorem widthBitsOf_presetOf (hi : BitVec 1) (lo : BitVec 2) :
    widthBitsOf (presetOf hi lo) = (lo.setWidth 32 <<< 1) ||| hi.setWidth 32 := by
  revert hi lo; decide

theorem widthBitsOf_fits (preset : BitVec 3) :
    widthBitsOf preset &&& fieldOnes .widthBits = widthBitsOf preset := by revert preset; decide

theorem infoMask_eq (l : StatLayout) :
    infoMask l = bitAt l.interlaced ||| bitAt l.rgb24 ||| bitAt l.pal ||| bitAt l.doubleHeight
      ||| (7 : Word) <<< l.widthBits := by
  simp only [infoMask, fieldMask_of_one (f := .interlaced) rfl, fieldMask_of_one (f := .rgb24) rfl,
    fieldMask_of_one (f := .pal) rfl, fieldMask_of_one (f := .doubleHeight) rfl]
  rfl

/-- The five field writes of a SetDisplayInfo, all at once: the fields are apart. -/
theorem infoStat_eq {l : StatLayout} (hl : layoutOk l = true) (hi lace rgb24 pal dbl : BitVec 1)
    (lo : BitVec 2) (st : Word) :
    infoStat l (presetOf hi lo) lace rgb24 pal dbl st =
      (st &&& ~~~infoMask l)
        ||| lace.setWidth 32 <<< l.interlaced ||| rgb24.setWidth 32 <<< l.rgb24
        ||| pal.setWidth 32 <<< l.pal ||| dbl.setWidth 32 <<< l.doubleHeight
        ||| lo.setWidth 32 <<< (l.widthBits + 1) ||| hi.setWidth 32 <<< l.widthBits := by
  have hwidth : widthBitsOf (presetOf hi lo) <<< l.widthBits
      = lo.setWidth 32 <<< (l.widthBits + 1) ||| hi.setWidth 32 <<< l.widthBits := by
    rw [widthBitsOf_presetOf, BitVec.shiftLeft_or_distrib, ← BitVec.shiftLeft_add, Nat.add_comm 1]
  have hfits := widthBitsOf_fits (presetOf hi lo)
  rw [BitVec.or_assoc _ (lo.setWidth 32 <<< (l.widthBits + 1)), ← hwidth]
  unfold infoStat infoMask
  simp only [bitWord_bitSet]
  rw [putField_of_fits (f := .interlaced) (setWidth_fits lace),
    putField_of_fits (f := .rgb24) (setWidth_fits rgb24),
    putField_of_fits (f := .pal) (setWidth_fits pal),
    putField_of_fits (f := .doubleHeight) (setWidth_fits dbl),
    putField_of_fits (f := .widthBits) hfits]
  simp only [BitVec.and_or_distrib_right,
    fits_and_not_mask hl (f := .widthBits) (g := .doubleHeight) (by decide) hfits,
    fits_and_not_mask hl (f := .widthBits) (g := .pal) (by decide) hfits,
    fits_and_not_mask hl (f := .widthBits) (g := .rgb24) (by decide) hfits,
    fits_and_not_mask hl (f := .widthBits) (g := .interlaced) (by decide) hfits,
    fits_and_not_mask hl (f := .doubleHeight) (g := .pal) (by decide) (setWidth_fits dbl),
    fits_and_not_mask hl (f := .doubleHeight) (g := .rgb24) (by decide) (setWidth_fits dbl),
    fits_and_not_mask hl (f := .doubleHeight) (g := .interlaced) (by decide) (setWidth_fits dbl),
    fits_and_not_mask hl (f := .pal) (g := .rgb24) (by decide) (setWidth_fits pal),
    fits_and_not_mask hl (f := .pal) (g := .interlaced) (by decide) (setWidth_fits pal),
    fits_and_not_mask hl (f := .rgb24) (g := .interlaced) (by decide) (setWidth_fits rgb24),
    BitVec.not_or]
  simp only [fieldLo]
  ac_rfl

/-- Settles O18: the five status fields are written at once, and the rate is selected when the rate
is automatic. -/
theorem setDisplayInfoCommand : Obligations.SetDisplayInfoCommand := by
  intro ignored ignored7 presetHi lace rgb24 pal dbl presetLo s halive hparams op l preset
    multiplier localization rate
  obtain ⟨-, -, -, -, -, -, -, -, -, -, -, hl⟩ := (paramsOk_iff s.cfg).1 hparams
  rw [exec_command (fun _ => rfl) halive rfl
    (opcodeOf_infoWord _ ignored ignored7 presetHi lace rgb24 pal dbl presetLo), commandEffect]
  simp only [infoEffect, infoStat_eq hl, infoMask_eq, infoGeometry, multiplierOf, localizationOf,
    depthOf, bitSet_eq_true_iff]
  cases hauto : s.cfg.autoDetectRate
  · rfl
  · rfl

/-- Settles O19: the four branches of the selection. -/
theorem rateSelection : Obligations.RateSelection := by
  intro p l lace
  refine ⟨fun hauto => ?_, fun hauto hfix => ?_, fun hauto hfix => ?_⟩
  · simp [rateOf, hauto]
  · simp [rateOf, hauto, hfix]
  · simp [rateOf, hauto, hfix]

/-- Settles O20: each row stores its word and its reply. -/
theorem gpuRequestReplies : Obligations.GpuRequestReplies := by
  intro ignored s halive op replies
  have hrow {i : Instr} {sub : BitVec 8} (hi : IsCommand i)
      (hword : encode s.cfg i = [requestWord s.cfg ignored sub, 0]) :=
    exec_command hi halive hword (opcodeOf_requestWord s.cfg ignored sub)
  exact ⟨hrow (fun _ => rfl) rfl, hrow (fun _ => rfl) rfl, hrow (fun _ => rfl) rfl,
    hrow (fun _ => rfl) rfl, hrow (fun _ => rfl) rfl, hrow (fun _ => rfl) rfl,
    hrow (fun _ => rfl) rfl, hrow (fun _ => rfl) rfl, fun _ => hrow (fun _ => rfl) rfl⟩

/-- Settles O21: the word is stored, and the effect is none. -/
theorem unassignedOpcodesOnlyStore : Obligations.UnassignedOpcodesOnlyStore :=
  fun param _ halive =>
    ⟨exec_command (fun _ => rfl) halive rfl (opcodeOf_rawWord Config.opUnassigned1 param),
      exec_command (fun _ => rfl) halive rfl (opcodeOf_rawWord Config.opUnassigned2 param),
      fun op => exec_command (fun _ => rfl) halive rfl (opcodeOf_rawWord op param)⟩

end Sys2Proof.Machine

/-! PROOFS. The status read and its two read-time side effects over several reads (40_status_port.md
R132 to R136), and the back end's calls on the status register (R137 to R139). -/

namespace Sys2Proof.Machine

/-! ## One read -/

/-- The two ready flags. -/
def readyMask (l : StatLayout) : Word := bitAt l.readyForCommands ||| bitAt l.idle

/-- R134: the word a status read samples. -/
def rsSample (s : State) : Word :=
  if s.busy = 0 then s.stat
  else if s.busy % 2 = 0 then s.stat &&& ~~~readyMask s.cfg.statLayout
  else s.stat ||| readyMask s.cfg.statLayout

theorem fakeBusy_stat (s : State) : (fakeBusy s).stat = rsSample s := by
  unfold fakeBusy rsSample
  split
  case isTrue => rfl
  case isFalse hbusy =>
    simp only [setField_stat, setField_cfg, readyMask]
    rw [putField_bitWord (f := .readyForCommands) rfl, putField_bitWord (f := .idle) rfl]
    simp only [fieldLo, beq_iff_eq]
    by_cases hodd : s.busy % 2 = 0
    · rw [if_neg (by omega), if_neg (by omega), if_pos hodd, BitVec.not_or]
      ac_rfl
    · rw [if_pos (by omega), if_pos (by omega), if_neg hodd]
      ac_rfl

theorem fakeBusy_eq (s : State) :
    fakeBusy s = { s with stat := rsSample s, busy := s.busy - 1 } := by
  rw [fakeBusy_frame, fakeBusy_stat]

/-- R135: under the fix every second read flips `OddLines`. -/
theorem oddEvenRead_eq (s : State) :
    oddEvenRead s = { s with
      rdcnt := if s.cfg.fixOddEvenBit then (if s.rdcnt = 1 then 0 else s.rdcnt + 1) else s.rdcnt
      stat := if s.cfg.fixOddEvenBit = true ∧ s.rdcnt = 1 then
        s.stat ^^^ bitAt s.cfg.statLayout.oddLines else s.stat } := by
  unfold oddEvenRead
  cases hfix : s.cfg.fixOddEvenBit with
  | false => simp
  | true =>
    by_cases hcount : s.rdcnt = 1
    · simp only [hcount, if_true, and_self, setStat, flipField_eq (f := .oddLines) rfl, fieldLo]
    · have hsecond : s.rdcnt + 1 ≠ 2 := by omega
      simp only [hcount, hsecond, if_true, if_false, and_false]

/-- R132: what a status read leaves, in a live state. -/
def afterRs (s : State) : State :=
  { s with
    busy := s.busy - 1
    rdcnt := if s.cfg.fixOddEvenBit then (if s.rdcnt = 1 then 0 else s.rdcnt + 1) else s.rdcnt
    stat := if s.cfg.fixOddEvenBit = true ∧ s.rdcnt = 1 then
      rsSample s ^^^ bitAt s.cfg.statLayout.oddLines else rsSample s
    answer := .word (rsSample s) }

theorem exec_rs {s : State} (halive : s.life ≠ .off) : exec .rs s = .next (afterRs s) := by
  rw [exec_rs_of_alive halive, oddEvenRead_eq, fakeBusy_eq]
  rfl

/-- Settles O22: the sample, then the count and the flip. -/
theorem statusReadResult : Obligations.StatusReadResult := fun _ halive => exec_rs halive

/-! ## Several reads -/

section Reads

variable {s : State}

/-- The one-bit fields of an accepted layout lie at different bits of the word. -/
theorem bitAt_getLsbD_ne {l : StatLayout} (hl : layoutOk l = true) {f g : StatField} (hfg : f ≠ g)
    (hg : fieldOnes g = 1) : (bitAt (fieldLo l g)).getLsbD (fieldLo l f) = false := by
  have hinside := layoutOk_inside hl f
  have hwidth : 0 < fieldWidth f := by cases f <;> decide
  have hgwidth := fieldWidth_of_one hg
  have hapart := layoutOk_disjoint hl hfg
  rw [bitAt_getLsbD _ (by omega)]
  exact decide_eq_false (by omega)

theorem readyMask_oddLines {l : StatLayout} (hl : layoutOk l = true) :
    (readyMask l).getLsbD l.oddLines = false := by
  rw [readyMask, BitVec.getLsbD_or, Bool.or_eq_false_iff]
  exact ⟨bitAt_getLsbD_ne hl (f := .oddLines) (g := .readyForCommands) (by decide) rfl,
    bitAt_getLsbD_ne hl (f := .oddLines) (g := .idle) (by decide) rfl⟩

/-- The fake-busy step leaves `OddLines` (R134). -/
theorem rsSample_oddLines (hl : layoutOk s.cfg.statLayout = true) :
    (rsSample s).getLsbD s.cfg.statLayout.oddLines
      = s.stat.getLsbD s.cfg.statLayout.oddLines := by
  have hlo : s.cfg.statLayout.oddLines < 32 := layoutOk_inside hl .oddLines
  have hready := readyMask_oddLines hl
  unfold rsSample
  split_ifs
  · rfl
  · rw [BitVec.getLsbD_and, BitVec.getLsbD_not, hready, decide_eq_true hlo]
    simp
  · rw [BitVec.getLsbD_or, hready, Bool.or_false]

/-- A read under the fix: the answer holds the old `OddLines`, and every second read flips it
(R135). -/
theorem exec_rs_oddLines (halive : s.life ≠ .off) (hl : layoutOk s.cfg.statLayout = true)
    (hfix : s.cfg.fixOddEvenBit = true) :
    ∃ (t : State) (r : Word), exec .rs s = .next t ∧ t.answer = .word r ∧ t.life = s.life
      ∧ t.cfg = s.cfg ∧ t.rdcnt = (if s.rdcnt = 1 then 0 else s.rdcnt + 1)
      ∧ r.getLsbD s.cfg.statLayout.oddLines = s.stat.getLsbD s.cfg.statLayout.oddLines
      ∧ t.stat.getLsbD s.cfg.statLayout.oddLines
        = (s.stat.getLsbD s.cfg.statLayout.oddLines ^^ decide (s.rdcnt = 1)) := by
  have hlo : s.cfg.statLayout.oddLines < 32 := layoutOk_inside hl .oddLines
  refine ⟨afterRs s, rsSample s, exec_rs halive, rfl, rfl, rfl, if_pos hfix, rsSample_oddLines hl,
    ?_⟩
  rw [← rsSample_oddLines hl]
  by_cases hcount : s.rdcnt = 1
  · have hflip := bitAt_getLsbD s.cfg.statLayout.oddLines hlo
    simp only [afterRs, hfix, hcount, and_self, if_true, BitVec.getLsbD_xor, hflip]
  · simp only [afterRs, hcount, and_false, if_false, decide_false, Bool.xor_false]

/-- Settles O24: four reads, each from the state the one before it left. -/
theorem fourStatusReads : Obligations.FourStatusReads := by
  intro s halive hparams hfix hcount k
  obtain ⟨-, -, -, -, -, -, -, -, -, -, -, hl⟩ := (paramsOk_iff s.cfg).1 hparams
  obtain ⟨t1, r1, hex1, hans1, hlife1, hcfg1, hcnt1, hr1, hst1⟩ := exec_rs_oddLines halive hl hfix
  obtain ⟨t2, r2, hex2, hans2, hlife2, hcfg2, hcnt2, hr2, hst2⟩ :=
    exec_rs_oddLines (s := t1) (hlife1 ▸ halive) (hcfg1 ▸ hl) (hcfg1 ▸ hfix)
  rw [hcfg1] at hcfg2 hr2 hst2
  obtain ⟨t3, r3, hex3, hans3, hlife3, hcfg3, hcnt3, hr3, hst3⟩ :=
    exec_rs_oddLines (s := t2) (hlife2 ▸ hlife1 ▸ halive) (hcfg2 ▸ hl) (hcfg2 ▸ hfix)
  rw [hcfg2] at hcfg3 hr3 hst3
  obtain ⟨t4, r4, hex4, hans4, -, -, -, hr4, -⟩ :=
    exec_rs_oddLines (s := t3) (hlife3 ▸ hlife2 ▸ hlife1 ▸ halive) (hcfg3 ▸ hl) (hcfg3 ▸ hfix)
  rw [hcfg3] at hr4
  have hone : t1.rdcnt = 1 := by rw [hcnt1, hcount]; rfl
  have hzero : t2.rdcnt = 0 := by rw [hcnt2, hone]; rfl
  simp only [hcount, hone, hzero, Nat.zero_ne_one, decide_true, decide_false, Bool.xor_false,
    Bool.xor_true] at hst1 hst2 hst3
  exact ⟨t1, t2, t3, t4, r1, r2, r3, r4, hex1, hex2, hex3, hex4, hans1, hans2, hans3, hans4, hr1,
    hr2.trans hst1, hr3.trans (hst2.trans (congrArg _ hst1)),
    hr4.trans (hst3.trans (hst2.trans (congrArg _ hst1)))⟩

end Reads

/-! ## A fake-busy sequence -/

/-- The sample differs from `STAT` at most in the two flags. -/
theorem rsSample_outside (s : State) :
    rsSample s &&& ~~~readyMask s.cfg.statLayout = s.stat &&& ~~~readyMask s.cfg.statLayout := by
  refine and_not_eq_iff.2 fun k hk hm => ?_
  unfold rsSample
  split_ifs
  · rfl
  · simp [-BitVec.getLsbD_eq_getElem, hk, hm]
  · simp [-BitVec.getLsbD_eq_getElem, hm]

theorem rsSample_or_ready (s : State) :
    rsSample s ||| readyMask s.cfg.statLayout = s.stat ||| readyMask s.cfg.statLayout := by
  rw [BitVec.eq_of_getLsbD_eq_iff]
  intro k hk
  have houtside := and_not_eq_iff.1 (rsSample_outside s) k hk
  simp only [BitVec.getLsbD_or]
  cases hm : (readyMask s.cfg.statLayout).getLsbD k with
  | false => rw [houtside hm]
  | true => rw [Bool.or_true, Bool.or_true]

/-- What a fake-busy sequence has done when it is over: both flags on, no other bit of `STAT`
written but, under the fix, `OddLines`, and nothing else but the two counters and the answer. -/
structure EndsReady (s t : State) : Prop where
  ready : t.stat &&& readyMask s.cfg.statLayout = readyMask s.cfg.statLayout
  others : t.stat &&& ~~~(readyMask s.cfg.statLayout ||| bitAt s.cfg.statLayout.oddLines)
    = s.stat &&& ~~~(readyMask s.cfg.statLayout ||| bitAt s.cfg.statLayout.oddLines)
  fixOff : s.cfg.fixOddEvenBit = false → t.stat = s.stat ||| readyMask s.cfg.statLayout
  frame : t = { s with stat := t.stat, busy := 0, rdcnt := t.rdcnt, answer := t.answer }

theorem afterRs_stat_of_fix_off {s : State} (hfix : s.cfg.fixOddEvenBit = false) :
    (afterRs s).stat = rsSample s :=
  if_neg (by simp [hfix])

/-- Outside the two flags and `OddLines` a read changes nothing. -/
theorem afterRs_others (s : State) :
    (afterRs s).stat &&& ~~~(readyMask s.cfg.statLayout ||| bitAt s.cfg.statLayout.oddLines)
      = s.stat &&& ~~~(readyMask s.cfg.statLayout ||| bitAt s.cfg.statLayout.oddLines) := by
  refine and_not_eq_iff.2 fun k hk hm => ?_
  rw [BitVec.getLsbD_or, Bool.or_eq_false_iff] at hm
  obtain ⟨hready, hodd⟩ := hm
  have houtside := and_not_eq_iff.1 (rsSample_outside s) k hk hready
  simp only [afterRs]
  split
  · rw [BitVec.getLsbD_xor, hodd, Bool.xor_false, houtside]
  · exact houtside

/-- The flip of `OddLines` leaves the two flags. -/
theorem afterRs_and_ready {s : State} (hl : layoutOk s.cfg.statLayout = true) :
    (afterRs s).stat &&& readyMask s.cfg.statLayout
      = rsSample s &&& readyMask s.cfg.statLayout := by
  simp only [afterRs]
  split
  case isFalse => rfl
  case isTrue =>
    rw [BitVec.eq_of_getLsbD_eq_iff]
    intro k hk
    rw [BitVec.getLsbD_and, BitVec.getLsbD_and, BitVec.getLsbD_xor, bitAt_getLsbD _ hk]
    by_cases hodd : k = s.cfg.statLayout.oddLines
    · rw [hodd, readyMask_oddLines hl, Bool.and_false, Bool.and_false]
    · rw [decide_eq_false hodd, Bool.xor_false]

theorem or_and_absorb (x y : Word) : (x ||| y) &&& y = y := by
  rw [BitVec.eq_of_getLsbD_eq_iff]
  intro k _
  simp only [BitVec.getLsbD_and, BitVec.getLsbD_or]
  cases y.getLsbD k <;> simp

/-- The last read of a sequence turns both flags on. -/
theorem endsReady_last {s : State} (hl : layoutOk s.cfg.statLayout = true) (hbusy : s.busy = 1) :
    EndsReady s (afterRs s) := by
  have hsample : rsSample s = s.stat ||| readyMask s.cfg.statLayout := by
    simp [rsSample, hbusy]
  refine ⟨?_, afterRs_others s, fun hfix => (afterRs_stat_of_fix_off hfix).trans hsample, ?_⟩
  · rw [afterRs_and_ready hl, hsample]
    exact or_and_absorb s.stat _
  · have hover : (afterRs s).busy = 0 := by rw [afterRs, hbusy]
    exact congrArg (fun n => { afterRs s with busy := n }) hover

/-- A read before the end leaves a sequence that ends as its rest ends. -/
theorem EndsReady.of_afterRs {s t : State} (h : EndsReady (afterRs s) t) : EndsReady s t where
  ready := h.ready
  others := h.others.trans (afterRs_others s)
  fixOff hfix := by rw [h.fixOff hfix, afterRs_stat_of_fix_off hfix]; exact rsSample_or_ready s
  frame := h.frame

theorem runInstrs_rs {s : State} (halive : s.life ≠ .off) (is : List Instr) :
    runInstrs (.rs :: is) s = runInstrs is (afterRs s) := by
  rw [runInstrs, exec_rs halive, andThen_next]

theorem fakeBusy_runs (n : Nat) : ∀ s : State, s.life ≠ .off → layoutOk s.cfg.statLayout = true →
    s.busy = n + 1 →
      ∃ t, runInstrs (List.replicate (n + 1) .rs) s = .next t ∧ EndsReady s t := by
  induction n with
  | zero =>
    intro s halive hl hbusy
    exact ⟨afterRs s, runInstrs_rs halive [], endsReady_last hl hbusy⟩
  | succ n ih =>
    intro s halive hl hbusy
    have hleft : (afterRs s).busy = n + 1 := by rw [afterRs, hbusy, Nat.add_sub_cancel]
    obtain ⟨t, hrun, hends⟩ := ih (afterRs s) halive hl hleft
    exact ⟨t, (runInstrs_rs halive _).trans hrun, hends.of_afterRs⟩

/-- Settles O25: the sequence by induction on its count. -/
theorem fakeBusyEndsReady : Obligations.FakeBusyEndsReady := by
  intro s halive hparams hbusy l ready others
  obtain ⟨-, -, -, -, -, -, -, -, -, -, -, hl⟩ := (paramsOk_iff s.cfg).1 hparams
  obtain ⟨n, hn⟩ : ∃ n, s.busy = n + 1 := ⟨s.busy - 1, by omega⟩
  obtain ⟨t, hrun, hends⟩ := fakeBusy_runs n s halive hl hn
  rw [← hn] at hrun
  exact ⟨t, hrun, congrArg State.busy hends.frame, hends.ready, hends.others, hends.fixOff,
    hends.frame⟩

/-! ## The back end's calls as transactions -/

theorem exec_of_alive {i : Instr} {s : State} {k : State → Res State} (halive : s.life ≠ .off)
    (hi : exec i s = whenAlive s k) : exec i s = k s :=
  hi.trans (whenAlive_of_alive halive k)

theorem backendStatMask_getLsbD (k : Nat) :
    (0xFFFF0000 : Word).getLsbD k = decide (16 ≤ k ∧ k < 32) := by
  by_cases hk : k < 32
  · have hbits : ∀ i : Fin 32, (0xFFFF0000 : Word).getLsbD i.val
        = decide (16 ≤ i.val ∧ i.val < 32) := by decide
    exact hbits ⟨k, hk⟩
  · rw [BitVec.getLsbD_of_ge _ _ (by omega), decide_eq_false (by omega)]

/-- R138: a mask is in range when it is below 65536. -/
theorem maskInRange_iff (m : Word) : maskInRange m = true ↔ m.toNat < 65536 := by
  have hmask : maskInRange m = true ↔ ∀ k < 32, 16 ≤ k → m.getLsbD k = false := by
    simp only [maskInRange, beq_iff_eq, BitVec.eq_of_getLsbD_eq_iff, BitVec.getLsbD_and,
      backendStatMask_getLsbD]
    refine forall₂_congr fun k hk => ?_
    by_cases hhigh : 16 ≤ k <;> simp [-BitVec.getLsbD_eq_getElem, hhigh, hk]
  rw [hmask]
  constructor
  · intro hhigh
    refine Nat.lt_pow_two_of_testBit (n := 16) _ fun k hk => ?_
    by_cases h32 : k < 32
    · exact hhigh k h32 hk
    · exact BitVec.getLsbD_of_ge m k (by omega)
  · intro hlt k _ hk
    have hpow : 65536 ≤ 2 ^ k := Nat.pow_le_pow_right (n := 2) (by decide) hk
    exact Nat.testBit_lt_two_pow (lt_of_lt_of_le hlt hpow)

/-- Settles O26: each call in a live state. -/
theorem backendStatusCalls : Obligations.BackendStatusCalls := by
  intro s halive
  refine ⟨exec_of_alive (k := runCall .busyKick) halive rfl, fun m => ?_, fun m => ?_, fun v =>
    ⟨exec_of_alive (k := runCall (.infoStore .texwin v)) halive rfl,
      exec_of_alive (k := runCall (.infoStore .drawstart v)) halive rfl,
      exec_of_alive (k := runCall (.infoStore .drawend v)) halive rfl,
      exec_of_alive (k := runCall (.infoStore .drawoff v)) halive rfl⟩⟩
  · rw [exec_of_alive (k := statSetCall m) halive rfl]
    simp only [statSetCall, maskInRange_iff]
    rfl
  · rw [exec_of_alive (k := statClrCall m) halive rfl]
    simp only [statClrCall, maskInRange_iff]
    rfl

/-! ## `DEFINE_AREA` -/

/-- R161: a flag set is an or with its bit. -/
theorem putField_one {l : StatLayout} {f : StatField} (hone : fieldOnes f = 1) (st : Word) :
    putField l f 1 st = st ||| bitAt (fieldLo l f) :=
  putField_bitWord hone true

theorem putField_zero {l : StatLayout} {f : StatField} (hone : fieldOnes f = 1) (st : Word) :
    putField l f 0 st = st &&& ~~~bitAt (fieldLo l f) :=
  putField_bitWord hone false

theorem areaInRange_iff {p : Params} {x y w h : Int} :
    areaInRange p x y w h = true ↔ 0 ≤ x ∧ x ≤ 1023 ∧ 0 ≤ y ∧ y < p.vramKb ∧ 1 ≤ w ∧ w ≤ 1024
      ∧ 1 ≤ h ∧ h ≤ p.vramKb := by
  simp only [areaInRange, Bool.and_eq_true, decide_eq_true_eq, and_assoc]
  rfl

/-- A non-negative two's complement operand is its unsigned value (log entry 3). -/
theorem toInt_toNat {x : Word} (h : 0 ≤ x.toInt) : x.toInt.toNat = x.toNat := by
  rw [BitVec.toInt_eq_toNat_cond] at h ⊢
  have := x.isLt
  split at h <;> split <;> omega

end Sys2Proof.Machine

namespace Sys2Proof

open Sys2Proof.Machine in
/-- Settles O27: in range the four operands are non-negative. -/
theorem defineArea : Obligations.DefineArea := by
  intro x y w h s halive
  rw [exec_of_alive (i := .areaIn x y w h)
      (k := Machine.defineArea .input (intOperand x) (intOperand y) (intOperand w) (intOperand h))
      halive rfl,
    exec_of_alive (i := .areaOut x y w h)
      (k := Machine.defineArea .output (intOperand x) (intOperand y) (intOperand w) (intOperand h))
      halive rfl]
  simp only [Machine.defineArea, areaInRange_iff, intOperand]
  split
  case isFalse => exact ⟨rfl, rfl⟩
  case isTrue hr =>
    obtain ⟨hx, -, hy, -, hw, -, hh, -⟩ := hr
    rw [toInt_toNat hx, toInt_toNat hy, toInt_toNat (by omega), toInt_toNat (by omega),
      putField_one (f := .readyForVram) rfl]
    exact ⟨rfl, rfl⟩

end Sys2Proof

/-! PROOFS. The read path of the data port (41_vram_transfer.md R165 to R172): the latch in Normal
mode, one word of an armed transfer, chunks one after another, and a whole window. -/

namespace Sys2Proof.Machine

/-! ## A chunk in Normal mode -/

section Normal

variable {s : State}

theorem readChunk_of_normal (hm : s.inMode = .normal) (n : Nat) :
    readChunk n s = .next ([], s) := by
  simp only [readChunk, retireRead_of_normal hm, hm, if_true]

theorem readPort_of_normal (hm : s.inMode = .normal) :
    readPort s = .next (reply (.word s.gdata) s) := by
  rw [readPort, readChunk_of_normal hm, andThen_next]

/-- The chunk read as a transaction's last part: its words are the answer. -/
def readReply (n : Nat) (s : State) : Res State :=
  andThen (readChunk n s) fun r => .next (reply (.words r.1) r.2)

theorem exec_rdm (halive : s.life ≠ .off) (n : Word) : exec (.rdm n) s = readReply n.toNat s :=
  exec_of_alive halive rfl

/-- The three forms of a single-word read are one read (log entry 6). -/
theorem exec_read (halive : s.life ≠ .off) :
    ∀ i ∈ [Instr.rd, .rdPixels, .rdReply], exec i s = readPort s := by
  intro i hi
  simp only [List.mem_cons, List.not_mem_nil, or_false] at hi
  obtain rfl | rfl | rfl := hi
  all_goals exact exec_of_alive halive rfl

theorem readReply_of_normal (hm : s.inMode = .normal) (n : Nat) :
    readReply n s = .next (reply (.words []) s) := by
  rw [readReply, readChunk_of_normal hm, andThen_next]

end Normal

/-- Settles O29: in Normal mode a chunk is empty and the latch is the answer. -/
theorem normalModeReads : Obligations.NormalModeReads := by
  intro n s halive hm
  have hread := exec_read halive
  have hport := readPort_of_normal hm
  exact ⟨(hread _ (by simp)).trans hport, (hread _ (by simp)).trans hport,
    (hread _ (by simp)).trans hport, (exec_rdm halive n).trans (readReply_of_normal hm _)⟩

/-- R165: an idle cursor in VramTransfer mode is a finished read. -/
theorem retireRead_of_finished {s : State} (hm : s.inMode = .vramTransfer)
    (hcin : s.cin = Cursor.idle) : retireRead s = finishRead s :=
  if_pos ⟨hm, hcin⟩

/-! ## One word of an armed transfer -/

/-- R169: the end of a read transfer. -/
theorem finishRead_eq (s : State) :
    finishRead s = { s with
      inMode := .normal
      stat := s.stat &&& ~~~bitAt s.cfg.statLayout.readyForVram
      cin := Cursor.idle } := by
  rw [finishRead, putField_zero (f := .readyForVram) rfl]
  rfl

section Armed

variable {s : State}

/-- The cursor past one word. -/
def wordCursor (s : State) : Cursor :=
  afterHighRead s.cfg.vramCells (stepCursor s.cfg.vramCells s.cin)

/-- The word at an armed cursor (R167, R168). -/
def wordAtCursor (s : State) : Word :=
  vramCell s (stepCursor s.cfg.vramCells s.cin).cur ++ vramCell s s.cin.cur

/-- The state a word leaves: the transfer ends with its last cell (R169, R170). -/
def afterWord (s : State) : State :=
  let t : State := { s with gdata := wordAtCursor s, cin := wordCursor s }
  if (wordCursor s).rc = 0 then finishRead t else t

theorem produceWord_of_legal (hl : cursorLegal s.cfg s.cin = true) :
    produceWord s = .next (wordAtCursor s, afterWord s) :=
  if_pos hl

theorem afterWord_of_last (hrc : (wordCursor s).rc = 0) :
    afterWord s = finishRead { s with gdata := wordAtCursor s, cin := wordCursor s } :=
  if_pos hrc

theorem afterWord_of_not_last (hrc : (wordCursor s).rc ≠ 0) :
    afterWord s = { s with gdata := wordAtCursor s, cin := wordCursor s } :=
  if_neg hrc

theorem produceWords_one (hl : cursorLegal s.cfg s.cin = true) :
    produceWords 1 s = .next ([wordAtCursor s], afterWord s) := by
  simp only [produceWords, produceWord_of_legal hl, andThen_next, ite_self]

/-- A transfer that is armed reads its words. -/
theorem readChunk_of_armed (hm : s.inMode = .vramTransfer) (hl : cursorLegal s.cfg s.cin = true)
    (n : Nat) : readChunk n s = produceWords n s := by
  simp [readChunk, retireRead_of_not_idle (cursorLegal_not_idle hl), hm]

theorem readPort_of_armed (hm : s.inMode = .vramTransfer) (hl : cursorLegal s.cfg s.cin = true) :
    readPort s = .next (reply (.word (afterWord s).gdata) (afterWord s)) := by
  rw [readPort, readChunk_of_armed hm hl, produceWords_one hl, andThen_next]

end Armed

/-- Settles O30: the one word of the chunk is latched and answered. -/
theorem armedReadProducesOneWord : Obligations.ArmedReadProducesOneWord := by
  intro s halive hm hl c1 c2 w t
  have ht : readPort s = .next t := by
    rw [readPort_of_armed hm hl]
    have hcursor : wordCursor s = c2 := rfl
    by_cases hrc : c2.rc = 0
    · simp only [afterWord_of_last (hcursor ▸ hrc), finishRead_eq, t, hrc, if_true]
      rfl
    · simp only [afterWord_of_not_last (hcursor ▸ hrc), t, hrc, if_false, ← hm]
      rfl
  have hread := exec_read halive
  exact ⟨(hread _ (by simp)).trans ht, (hread _ (by simp)).trans ht, (hread _ (by simp)).trans ht⟩

/-! ## Chunks one after another -/

section Chunks

theorem produceWord_not_refused (s : State) (r : Refusal) : produceWord s ≠ .refused r := by
  unfold produceWord
  split <;> simp

theorem andThen_not_refused {α β : Type} {o : Res α} {f : α → Res β} {r : Refusal}
    (ho : o ≠ .refused r) (hf : ∀ a, f a ≠ .refused r) : andThen o f ≠ .refused r := by
  cases o with
  | next a => exact hf a
  | fault e => simp
  | refused q => simpa using ho

theorem produceWords_not_refused (n : Nat) (s : State) (r : Refusal) :
    produceWords n s ≠ .refused r := by
  induction n generalizing s with
  | zero => simp [produceWords]
  | succ n ih =>
    refine andThen_not_refused (produceWord_not_refused s r) fun first => ?_
    split
    · simp
    · exact andThen_not_refused (ih first.2) fun _ => by simp

/-- Under the invariant every chunk read completes. -/
theorem readChunk_completes {s : State} (h : Inv s) (n : Nat) :
    ∃ ws t, readChunk n s = .next (ws, t) := by
  cases hread : readChunk n s with
  | next r => exact ⟨r.1, r.2, rfl⟩
  | fault e => exact absurd hread (readChunk_not_fault h e)
  | refused r =>
    unfold readChunk at hread
    simp only at hread
    split at hread
    · cases hread
    · exact absurd hread (produceWords_not_refused n _ r)

theorem readChunk_length {n : Nat} {s t : State} {ws : List Word}
    (ht : readChunk n s = .next (ws, t)) : ws.length ≤ n := by
  unfold readChunk at ht
  simp only at ht
  split at ht
  · cases ht
    exact Nat.zero_le n
  · exact produceWords_length n ht

/-- No transfer to retire: the direction is in Normal mode or its cursor is armed. -/
def ReadSettled (s : State) : Prop := s.inMode = .normal ∨ s.cin ≠ Cursor.idle

theorem retireRead_settled (s : State) : ReadSettled (retireRead s) := by
  unfold retireRead
  split
  case isTrue => exact .inl rfl
  case isFalse hidle =>
    cases hm : s.inMode with
    | normal => exact .inl hm
    | vramTransfer => exact .inr fun hcin => hidle ⟨hm, hcin⟩

theorem retireRead_of_settled {s : State} (h : ReadSettled s) : retireRead s = s := by
  obtain hm | hcin := h
  · exact retireRead_of_normal hm
  · exact retireRead_of_not_idle hcin

theorem readChunk_settled {n : Nat} {s t : State} {ws : List Word}
    (ht : readChunk n s = .next (ws, t)) : ReadSettled t := by
  have hword (u : State) (w : Word) (v : State) (_ : ReadSettled u)
      (hv : produceWord u = .next (w, v)) : ReadSettled v := by
    obtain ⟨hm, -⟩ | ⟨-, hl⟩ := produceWord_mode hv
    · exact .inl hm
    · exact .inr (cursorLegal_not_idle hl)
  unfold readChunk at ht
  simp only at ht
  split at ht
  case isTrue hm => cases ht; exact .inl hm
  case isFalse => exact produceWords_keeps hword n (retireRead_settled s) ht

/-- The words after a first run: none when it ended the transfer. -/
def readOn (b : Nat) (r : List Word × State) : Res (List Word × State) :=
  if r.2.inMode = .normal then .next r
  else andThen (produceWords b r.2) fun more => .next (r.1 ++ more.1, more.2)

theorem readOn_nil (b : Nat) {s : State} (hm : s.inMode ≠ .normal) :
    readOn b ([], s) = produceWords b s := by
  simp only [readOn, hm, if_false, List.nil_append]
  exact andThen_pure _

theorem readOn_cons (b : Nat) (w : Word) (r : List Word × State) :
    readOn b (w :: r.1, r.2) = andThen (readOn b r) fun more => .next (w :: more.1, more.2) := by
  unfold readOn
  split
  · rfl
  · rw [andThen_assoc]
    rfl

/-- D16: a run of words may be cut anywhere. -/
theorem produceWords_add (a b : Nat) {s : State} (hm : s.inMode ≠ .normal) :
    produceWords (a + b) s = andThen (produceWords a s) (readOn b) := by
  induction a generalizing s with
  | zero => rw [Nat.zero_add, produceWords, andThen_next, readOn_nil b hm]
  | succ a ih =>
    rw [Nat.add_right_comm, produceWords, produceWords, andThen_assoc]
    congr 1
    funext first
    by_cases hover : first.2.inMode = .normal
    · simp only [hover, if_true, andThen_next, readOn]
    · simp only [hover, if_false, ih hover, andThen_assoc, andThen_next]
      congr 1
      funext r
      exact (readOn_cons b first.1 r).symm

theorem readChunk_add {a b : Nat} {s t u : State} {xs ys : List Word}
    (ht : readChunk a s = .next (xs, t)) (hu : readChunk b t = .next (ys, u)) :
    readChunk (a + b) s = .next (xs ++ ys, u) := by
  have hsettled := retireRead_of_settled (readChunk_settled ht)
  by_cases hm : (retireRead s).inMode = .normal
  · simp only [readChunk, hm, if_true, Host.Outcome.next.injEq, Prod.mk.injEq] at ht ⊢
    obtain ⟨rfl, rfl⟩ := ht
    simpa only [List.nil_append, readChunk, retireRead_of_settled (retireRead_settled s), hm,
      if_true, Host.Outcome.next.injEq, Prod.mk.injEq] using hu
  · simp only [readChunk, hm, if_false] at ht ⊢
    rw [produceWords_add a b hm, ht, andThen_next, readOn]
    simp only [readChunk, hsettled] at hu
    split at hu
    case isTrue hover => cases hu; simp only [hover, if_true, List.append_nil]
    case isFalse hon => simp only [hon, if_false, hu, andThen_next]

/-- The answer held from the transaction before takes no part in a read. -/
theorem produceWord_reply (a : Answer) (s : State) :
    produceWord (reply a s) = andThen (produceWord s) fun r => .next (r.1, reply a r.2) := by
  by_cases hl : cursorLegal s.cfg s.cin = true
  · have hl' : cursorLegal (reply a s).cfg (reply a s).cin = true := hl
    rw [produceWord_of_legal hl, produceWord_of_legal hl', andThen_next]
    have hafter : afterWord (reply a s) = reply a (afterWord s) := by
      by_cases hrc : (wordCursor s).rc = 0
      · rw [afterWord_of_last hrc, afterWord_of_last (s := reply a s) hrc]
        rfl
      · rw [afterWord_of_not_last hrc, afterWord_of_not_last (s := reply a s) hrc]
        rfl
    rw [hafter]
    rfl
  · simp [produceWord, hl]

theorem produceWords_reply (a : Answer) (n : Nat) (s : State) :
    produceWords n (reply a s) = andThen (produceWords n s) fun r => .next (r.1, reply a r.2) := by
  induction n generalizing s with
  | zero => rfl
  | succ n ih =>
    rw [produceWords, produceWords, produceWord_reply, andThen_assoc, andThen_assoc]
    congr 1
    funext first
    simp only [andThen_next, reply_inMode, ih]
    split
    · rfl
    · simp only [andThen_assoc, andThen_next]

theorem readChunk_reply {a : Answer} {n : Nat} {s t : State} {ws : List Word}
    (ht : readChunk n s = .next (ws, t)) : readChunk n (reply a s) = .next (ws, reply a t) := by
  have hretire : retireRead (reply a s) = reply a (retireRead s) := by
    by_cases hidle : s.inMode = .vramTransfer ∧ s.cin = Cursor.idle
    · obtain ⟨hm, hcin⟩ := hidle
      rw [retireRead_of_finished hm hcin, retireRead_of_finished (s := reply a s) hm hcin]
      rfl
    · have hsame : retireRead s = s := if_neg hidle
      rw [hsame]
      exact if_neg hidle
  simp only [readChunk, hretire, reply_inMode] at ht ⊢
  split at ht
  case isTrue hm => cases ht; rw [if_pos hm]
  case isFalse hm => rw [if_neg hm, produceWords_reply, ht, andThen_next]

end Chunks

/-- Settles O31: both chunks complete, and joined they are the run of all the words. -/
theorem readChunksCompose : Obligations.ReadChunksCompose := by
  intro a b s hinv halive hlt
  obtain ⟨xs, t, ht⟩ := readChunk_completes hinv a.toNat
  obtain ⟨ys, u, hu⟩ := readChunk_completes (readChunk_keeps_inv hinv ht) b.toNat
  have hsum : (a + b).toNat = a.toNat + b.toNat := by
    rw [BitVec.toNat_add, Nat.mod_eq_of_lt hlt]
  have hlife : (reply (.words xs) t).life ≠ .off := by
    rw [readChunk_frame ht]
    exact halive
  refine ⟨reply (.words xs) t, reply (.words ys) u, xs, ys, ?_, rfl,
    readChunk_length ht, ?_, rfl, ?_⟩
  · rw [exec_rdm halive, readReply, ht, andThen_next]
  · rw [exec_rdm hlife, readReply, readChunk_reply hu, andThen_next]
    rfl
  · rw [exec_rdm halive, readReply, hsum, readChunk_add ht hu, andThen_next]
    rfl

end Sys2Proof.Machine

/-! PROOFS. A whole window, cell by cell (41_vram_transfer.md R164, R181, R182): the cursor at each
cell, the words a read transfer gives, and the cells a write transfer stores. -/

namespace Sys2Proof.Machine

/-! ## The cursor at each cell of a window -/

/-- The cursor of the window `x, y, w, h` that stands at its cell `k`. -/
def cursorAt (p : Params) (x y w h k : Nat) : Cursor :=
  ⟨x, y, w, h, w - k % w, h - k / w, windowCell p x y w k⟩

/-- A window that `DEFINE_AREA` accepts (R160). -/
structure WindowOk (p : Params) (x y w h : Nat) : Prop where
  xLe : x ≤ 1023
  yLt : y < p.vramKb
  wPos : 1 ≤ w
  wLe : w ≤ 1024
  hPos : 1 ≤ h
  hLe : h ≤ p.vramKb

section Window

variable {p : Params} {x y w h : Nat}

theorem vramCells_pos (p : Params) : 0 < p.vramCells := by
  have := vramRows_pos p
  have := vramCells_eq p
  omega

theorem windowCell_lt (k : Nat) : windowCell p x y w k < p.vramCells :=
  Nat.mod_lt _ (vramCells_pos p)

/-- The first cell is at the window's corner. -/
theorem windowCell_zero (hok : WindowOk p x y w h) : windowCell p x y w 0 = y * 1024 + x := by
  have hcells : p.vramCells = p.vramKb * 1024 := rfl
  have hlt : y * 1024 + x < p.vramCells := by
    have := hok.xLe
    have := hok.yLt
    omega
  simp only [windowCell, Nat.zero_div, Nat.zero_mod, Nat.mul_zero, Nat.add_zero,
    Nat.mod_eq_of_lt hlt]

theorem cursorAt_zero (hok : WindowOk p x y w h) :
    cursorAt p x y w h 0 = ⟨x, y, w, h, w, h, y * 1024 + x⟩ := by
  simp only [cursorAt, windowCell_zero hok, Nat.zero_div, Nat.zero_mod, Nat.sub_zero]

theorem cursorAt_legal (hok : WindowOk p x y w h) {k : Nat} (hk : k < w * h) :
    cursorLegal p (cursorAt p x y w h k) = true := by
  have hrow : k / w < h := Nat.div_lt_of_lt_mul hk
  have hcol : k % w < w := Nat.mod_lt k hok.wPos
  have hcell := windowCell_lt (p := p) (x := x) (y := y) (w := w) k
  have hrows : p.vramRows = p.vramKb := rfl
  obtain ⟨hx, hy, hw, hw', hh, hh'⟩ := hok
  rw [cursorLegal_iff]
  exact ⟨hx, hy, hw', hh', Nat.sub_pos_of_lt hcol, Nat.sub_le _ _, Nat.sub_pos_of_lt hrow,
    Nat.sub_le _ _, hcell⟩

/-- Past the last cell of the window no row is left. -/
theorem cursorAt_rc_eq_zero_iff (hok : WindowOk p x y w h) {k : Nat} (hk : k ≤ w * h) :
    (cursorAt p x y w h k).rc = 0 ↔ k = w * h := by
  have hle : k / w ≤ h := Nat.div_le_of_le_mul hk
  simp only [cursorAt]
  constructor
  · intro hrc
    have hrow : h ≤ k / w := by omega
    have hwh : w * h ≤ k := (Nat.mul_comm w h).trans_le ((Nat.le_div_iff_mul_le hok.wPos).1 hrow)
    omega
  · rintro rfl
    rw [Nat.mul_div_cancel_left h hok.wPos, Nat.sub_self]

/-- The last cell of a row, and the first of the next. -/
theorem next_of_row_end {k : Nat} (hw : 0 < w) (hend : k % w + 1 = w) :
    (k + 1) / w = k / w + 1 ∧ (k + 1) % w = 0 := by
  have hk : k % w + w * (k / w) = k := Nat.mod_add_div k w
  refine (Nat.div_mod_unique hw).2 ⟨?_, hw⟩
  rw [Nat.mul_add_one]
  omega

/-- A cell inside a row, and the next. -/
theorem next_inside_row {k : Nat} (hin : k % w + 1 < w) :
    (k + 1) / w = k / w ∧ (k + 1) % w = k % w + 1 := by
  have hk : k % w + w * (k / w) = k := Nat.mod_add_div k w
  exact (Nat.div_mod_unique (by omega)).2 ⟨by omega, hin⟩

/-- R164: one step goes from a cell of the window to the next. -/
theorem stepCursor_cursorAt (hok : WindowOk p x y w h) {k : Nat} (hk : k < w * h) :
    stepCursor p.vramCells (cursorAt p x y w h k) = cursorAt p x y w h (k + 1) := by
  have hcol : k % w < w := Nat.mod_lt k hok.wPos
  have hw := hok.wLe
  rw [stepCursor_eq_ite (cursorAt_legal hok hk)]
  simp only [cursorAt, windowCell, Nat.add_assoc, Nat.mod_add_mod]
  by_cases hend : k % w + 1 = w
  · obtain ⟨hdiv, hmod⟩ := next_of_row_end hok.wPos hend
    have hcell : k % w + (1 + (1024 - w)) = 1024 := by omega
    rw [if_pos (by omega), hmod, hdiv, hcell, Nat.mul_add_one 1024, Nat.add_zero, Nat.sub_zero,
      Nat.sub_add_eq]
  · obtain ⟨hdiv, hmod⟩ := next_inside_row (k := k) (w := w) (by omega)
    rw [if_neg (by omega), hmod, hdiv, Nat.sub_add_eq]

/-- A word takes two cells of the window, or its last one. -/
theorem afterHighRead_cursorAt (hok : WindowOk p x y w h) {k : Nat} (hk : k < w * h) :
    afterHighRead p.vramCells (stepCursor p.vramCells (cursorAt p x y w h k))
      = cursorAt p x y w h (min (k + 2) (w * h)) := by
  rw [stepCursor_cursorAt hok hk, afterHighRead]
  by_cases hlast : k + 1 = w * h
  · rw [if_pos ((cursorAt_rc_eq_zero_iff hok hk).2 hlast)]
    congr 1
    omega
  · rw [if_neg (mt (cursorAt_rc_eq_zero_iff hok hk).1 hlast), stepCursor_cursorAt hok (by omega)]
    congr 1
    omega

end Window

/-! ## A whole window read -/

/-- The word that begins with cell `k` of a window. -/
def windowWord (m : Memory) (p : Params) (x y w k : Nat) : Word :=
  readHalf m (windowCell p x y w (k + 1)) ++ readHalf m (windowCell p x y w k)

/-- The words of a window from word `j` on. -/
def windowStream (m : Memory) (p : Params) (x y w j n : Nat) : List Word :=
  (List.range' j n).map fun i => windowWord m p x y w (2 * i)

section Read

variable {x y w h j : Nat} {s : State}

/-- A word that begins with cell `k` of the window, and the cursor past it. -/
theorem word_of_cursorAt (hok : WindowOk s.cfg x y w h) {k : Nat} (hk : k < w * h)
    (hcin : s.cin = cursorAt s.cfg x y w h k) :
    wordAtCursor s = windowWord s.vram s.cfg x y w k
      ∧ wordCursor s = cursorAt s.cfg x y w h (min (k + 2) (w * h)) := by
  refine ⟨?_, ?_⟩
  · rw [wordAtCursor, hcin, stepCursor_cursorAt hok hk]
    rfl
  · rw [wordCursor, hcin, afterHighRead_cursorAt hok hk]

/-- The state after the last word of a window. -/
def windowRead (s : State) (ws : List Word) : State :=
  { s with
    gdata := ws.getLastD 0
    cin := Cursor.idle
    inMode := .normal
    stat := s.stat &&& ~~~bitAt s.cfg.statLayout.readyForVram }

theorem windowStream_succ (m : Memory) (p : Params) (x y w j n : Nat) :
    windowStream m p x y w j (n + 1)
      = windowWord m p x y w (2 * j) :: windowStream m p x y w (j + 1) n := rfl

/-- Only the last word stays latched. -/
theorem windowRead_cons {s : State} {word : Word} {ws : List Word} {c : Cursor} (hws : ws ≠ []) :
    windowRead { s with gdata := word, cin := c } ws = windowRead s (word :: ws) := by
  obtain ⟨v, vs, rfl⟩ := List.exists_cons_of_ne_nil hws
  simp only [windowRead, List.getLastD_cons]

/-- The last word of a window ends the transfer. -/
theorem produceWords_window_last (hok : WindowOk s.cfg x y w h) {k : Nat} (hk : k < w * h)
    (hlast : w * h ≤ k + 2) (hcin : s.cin = cursorAt s.cfg x y w h k) (m : Nat) :
    produceWords (m + 1) s = .next ([windowWord s.vram s.cfg x y w k],
      windowRead s [windowWord s.vram s.cfg x y w k]) := by
  obtain ⟨hword, hcursor⟩ := word_of_cursorAt hok hk hcin
  rw [Nat.min_eq_right hlast] at hcursor
  have hl : cursorLegal s.cfg s.cin = true := hcin ▸ cursorAt_legal hok hk
  have hrc : (wordCursor s).rc = 0 := by
    rw [hcursor]
    exact (cursorAt_rc_eq_zero_iff hok le_rfl).2 rfl
  rw [produceWords, produceWord_of_legal hl, andThen_next]
  simp only [afterWord_of_last hrc, finishRead_inMode, if_true, hword]
  rw [finishRead_eq]
  rfl

/-- Any other word leaves the transfer armed two cells on. -/
theorem produceWords_window_more (hok : WindowOk s.cfg x y w h) (hm : s.inMode = .vramTransfer)
    {k : Nat} (hk : k + 2 < w * h) (hcin : s.cin = cursorAt s.cfg x y w h k) (m : Nat) :
    produceWords (m + 1) s =
      andThen (produceWords m { s with
          gdata := windowWord s.vram s.cfg x y w k, cin := cursorAt s.cfg x y w h (k + 2) })
        fun more => .next (windowWord s.vram s.cfg x y w k :: more.1, more.2) := by
  obtain ⟨hword, hcursor⟩ := word_of_cursorAt hok (by omega) hcin
  rw [Nat.min_eq_left hk.le] at hcursor
  have hl : cursorLegal s.cfg s.cin = true := hcin ▸ cursorAt_legal hok (by omega)
  have hrc : (wordCursor s).rc ≠ 0 := by
    rw [hcursor]
    exact mt (cursorAt_rc_eq_zero_iff hok hk.le).1 hk.ne
  have harmed : (afterWord s).inMode ≠ .normal := by
    rw [afterWord_of_not_last hrc]
    simp [hm]
  rw [produceWords, produceWord_of_legal hl, andThen_next]
  simp only [if_neg harmed]
  rw [afterWord_of_not_last hrc, hword, hcursor]

/-- R181, R182: from word `j` of a window on, `n + 1` words are left. -/
theorem produceWords_window (n : Nat) {j m : Nat} {s : State} (hok : WindowOk s.cfg x y w h)
    (hm : s.inMode = .vramTransfer) (hleft : j + n + 1 = windowWords w h) (hn : n + 1 ≤ m)
    (hcin : s.cin = cursorAt s.cfg x y w h (2 * j)) :
    produceWords m s = .next (windowStream s.vram s.cfg x y w j (n + 1),
      windowRead s (windowStream s.vram s.cfg x y w j (n + 1))) := by
  induction n generalizing j m s with
  | zero =>
    unfold windowWords at hleft
    obtain ⟨m, rfl⟩ : ∃ m', m = m' + 1 := ⟨m - 1, by omega⟩
    exact produceWords_window_last hok (by omega) (by omega) hcin m
  | succ n ih =>
    have hsize := hleft
    unfold windowWords at hsize
    obtain ⟨m, rfl⟩ : ∃ m', m = m' + 1 := ⟨m - 1, by omega⟩
    let t : State := { s with
      gdata := windowWord s.vram s.cfg x y w (2 * j), cin := cursorAt s.cfg x y w h (2 * j + 2) }
    rw [produceWords_window_more hok hm (by omega) hcin m,
      ih (s := t) (j := j + 1) hok hm (by omega) (by omega) rfl, andThen_next,
      windowStream_succ _ _ _ _ _ j (n + 1), windowRead_cons (by simp [windowStream])]

theorem low_half (hi lo : Half) : (hi ++ lo : Word).extractLsb' 0 16 = lo :=
  extract_append_low hi lo

theorem high_half (hi lo : Half) : (hi ++ lo : Word).extractLsb' 16 16 = hi :=
  extract_append_top hi lo

/-- Half-word `k` of a window's words is its cell `k`; the left-over half of an odd window is the
cell that would come next. -/
theorem streamHalf_windowStream {m : Memory} {p : Params} {n k : Nat} (hk : k < 2 * n) :
    streamHalf (windowStream m p x y w 0 n) k = readHalf m (windowCell p x y w k) := by
  have hlt : k / 2 < n := by omega
  have hget : (windowStream m p x y w 0 n).getD (k / 2) 0 = windowWord m p x y w (2 * (k / 2)) := by
    simp [windowStream, hlt]
  rw [streamHalf, hget, windowWord]
  obtain heven | hodd := Nat.mod_two_eq_zero_or_one k
  · have hcell : 2 * (k / 2) = k := by omega
    rw [heven, Nat.mul_zero, low_half, hcell]
  · have hcell : 2 * (k / 2) + 1 = k := by omega
    rw [hodd, Nat.mul_one, high_half, hcell]

end Read

/-- Settles O32: the armed cursor is the window's at its first cell, and the run of words goes to
its last one. -/
theorem wholeWindowReadBack : Obligations.WholeWindowReadBack := by
  intro x y w h n s halive hm hx hy hw hw' hh hh' hcin hn
  have hok : WindowOk s.cfg x y w h := ⟨hx, hy, hw, hw', hh, hh'⟩
  have hfirst : s.cin = cursorAt s.cfg x y w h (2 * 0) := hcin.trans (cursorAt_zero hok).symm
  have hcells : 0 < w * h := Nat.mul_pos hw hh
  have hl : cursorLegal s.cfg s.cin = true := hfirst ▸ cursorAt_legal hok hcells
  obtain ⟨r, hr⟩ : ∃ r, windowWords w h = r + 1 :=
    ⟨windowWords w h - 1, by unfold windowWords; omega⟩
  have hrun := produceWords_window r (j := 0) hok hm (by omega) (hr ▸ hn) hfirst
  rw [← hr] at hrun
  refine ⟨windowStream s.vram s.cfg x y w 0 (windowWords w h), ?_, ?_, fun k hk => ?_,
    fun hodd => ?_⟩
  · rw [exec_rdm halive, readReply, readChunk_of_armed hm hl, hrun, andThen_next]
    rfl
  · simp [windowStream]
  · exact streamHalf_windowStream (by unfold windowWords; omega)
  · rw [streamHalf_windowStream (by unfold windowWords; omega), windowCell,
      Nat.mul_div_cancel_left h hw, Nat.mul_mod_right, Nat.add_zero]
    rfl

end Sys2Proof.Machine

/-! PROOFS. The write path of the data port (41_vram_transfer.md R165, R174 to R180): Normal words,
an idle cursor, one word of an armed transfer, chunks one after another, and a whole window. -/

namespace Sys2Proof.Machine

/-! ## The transactions and their chunks -/

section Exec

variable {s : State} (halive : s.life ≠ .off)

include halive

theorem exec_wdm (ws : List Word) : exec (.wdm ws) s = writeChunk ws s :=
  exec_of_alive halive rfl

theorem exec_wd (w : Word) : exec (.wd w) s = writeChunk [w] s :=
  exec_of_alive halive rfl

theorem exec_wdNormal (w : Word) : exec (.wdNormal w) s = writeWord w s :=
  exec_of_alive halive rfl

theorem exec_wdPixels (hi lo : Half) : exec (.wdPixels hi lo) s = writeWord (hi ++ lo) s :=
  exec_of_alive halive rfl

end Exec

section Chunks

variable {s : State}

theorem writeChunk_one (w : Word) (s : State) : writeChunk [w] s = writeWord w s :=
  andThen_pure (writeWord w s)

theorem writeChunk_cons (w : Word) (ws : List Word) (s : State) :
    writeChunk (w :: ws) s = andThen (writeWord w s) (writeChunk ws) := rfl

theorem writeChunk_append (xs ys : List Word) (s : State) :
    writeChunk (xs ++ ys) s = andThen (writeChunk xs s) (writeChunk ys) := by
  induction xs generalizing s with
  | nil => rfl
  | cons x xs ih =>
    simp only [List.cons_append, writeChunk_cons, andThen_assoc]
    congr 1
    funext t
    exact ih t

theorem writeChunk_alive {ws : List Word} {t : State} (halive : s.life ≠ .off)
    (ht : writeChunk ws s = .next t) : t.life ≠ .off := by
  rw [writeChunk_frame ht]
  exact halive

end Chunks

/-- Settles O36: the words go one by one, and the state between two chunks is live. -/
theorem writeChunksCompose : Obligations.WriteChunksCompose := by
  intro s halive
  refine ⟨fun xs ys => ?_, fun w => (exec_wd halive w).trans (exec_wdm halive [w]).symm⟩
  rw [exec_wdm halive, writeChunk_append, runInstrs, exec_wdm halive]
  cases hfirst : writeChunk xs s with
  | next t =>
    rw [andThen_next, andThen_next, runInstrs, exec_wdm (writeChunk_alive halive hfirst)]
    exact (andThen_pure _).symm
  | fault e => rfl
  | refused r => rfl

/-! ## Normal mode -/

section Normal

variable {s : State}

theorem writeWord_of_normal (hm : s.outMode = .normal) (w : Word) :
    writeWord w s = normalWord w s := by
  simp only [writeWord, retireWrite_of_normal hm, hm]

theorem normalWord_of_silent (hb : s.backend = []) (w : Word) :
    normalWord w s = .next (emit (.normalWord w) s) := by
  simp only [normalWord, hb]

/-- R179: with a back end that makes no call the words are handed over, in order. -/
theorem writeChunk_of_normal (ws : List Word) {s : State} (hm : s.outMode = .normal)
    (hb : s.backend = []) :
    writeChunk ws s = .next { s with events := s.events ++ handedOver ws } := by
  induction ws generalizing s with
  | nil => simp [writeChunk, handedOver]
  | cons w ws ih =>
    rw [writeChunk_cons, writeWord_of_normal hm, normalWord_of_silent hb, andThen_next,
      ih (s := emit (.normalWord w) s) hm hb]
    simp only [emit, handedOver, List.map_cons, List.append_assoc, List.singleton_append]

theorem writeWord_of_silent (hm : s.outMode = .normal) (hb : s.backend = []) (w : Word) :
    writeWord w s = .next { s with events := s.events ++ [.normalWord w] } := by
  rw [writeWord_of_normal hm, normalWord_of_silent hb]
  rfl

end Normal

/-- Settles O35: each form hands its words over. -/
theorem normalWordsHandedOver : Obligations.NormalWordsHandedOver := by
  intro s halive hm hb
  refine ⟨fun ws => ?_, fun w => ?_, fun w => ?_, fun hi lo => ?_⟩
  · rw [exec_wdm halive, writeChunk_of_normal ws hm hb]
  · rw [exec_wd halive, writeChunk_of_normal [w] hm hb]
    rfl
  · rw [exec_wdNormal halive, writeWord_of_silent hm hb]
  · rw [exec_wdPixels halive, writeWord_of_silent hm hb]

/-! ## An idle cursor -/

section Idle

variable {s : State}

/-- R165, R178: a write transfer without cells is over before the next word. -/
theorem retireWrite_of_finished (hm : s.outMode = .vramTransfer) (hc : s.cout = Cursor.idle) :
    retireWrite s = { s with outMode := .normal } := by
  have hretire : retireWrite s = finishWrite false s := if_pos ⟨hm, hc⟩
  rw [hretire, finishWrite, Bool.or_false, ← hc]

theorem writeWord_of_finished (hm : s.outMode = .vramTransfer) (hc : s.cout = Cursor.idle)
    (w : Word) : writeWord w s = writeWord w { s with outMode := .normal } := by
  have hnormal : retireWrite { s with outMode := .normal } = { s with outMode := .normal } :=
    retireWrite_of_normal rfl
  simp only [writeWord, retireWrite_of_finished hm hc, hnormal]

/-- Every write of at least one word goes on as in Normal mode. -/
theorem exec_write_of_finished (halive : s.life ≠ .off) (hm : s.outMode = .vramTransfer)
    (hc : s.cout = Cursor.idle) (w : Word) (hi lo : Half) (ws : List Word) :
    ∀ i ∈ [Instr.wd w, .wdNormal w, .wdPixels hi lo, .wdm (w :: ws)],
      exec i s = exec i { s with outMode := .normal } := by
  have halive' : ({ s with outMode := .normal } : State).life ≠ .off := halive
  have hword := writeWord_of_finished hm hc
  intro i hi
  simp only [List.mem_cons, List.not_mem_nil, or_false] at hi
  obtain rfl | rfl | rfl | rfl := hi
  · rw [exec_wd halive, exec_wd halive', writeChunk_one, writeChunk_one, hword]
  · rw [exec_wdNormal halive, exec_wdNormal halive', hword]
  · rw [exec_wdPixels halive, exec_wdPixels halive', hword]
  · rw [exec_wdm halive, exec_wdm halive', writeChunk_cons, writeChunk_cons, hword]

end Idle

/-- Settles O33: the retired read finds Normal mode, and so does the retired write. -/
theorem idleCursorRetires : Obligations.IdleCursorRetires := by
  intro n w hi lo ws s halive
  refine ⟨fun hm hc => ?_, fun hm hc => ⟨?_, exec_write_of_finished halive hm hc w hi lo ws, ?_⟩⟩
  · intro t
    have hidle : s.cin = Cursor.idle := hc
    have ht : retireRead s = t := by
      rw [retireRead_of_finished hm hidle, finishRead_eq, ← hidle]
    have hchunk (n : Nat) : readChunk n s = .next ([], t) := by
      simp only [readChunk, ht, t, if_true]
    refine ⟨fun i hi => ?_, ?_⟩
    · rw [exec_read halive i hi, readPort, hchunk, andThen_next]
      rfl
    · rw [exec_rdm halive, readReply, hchunk, andThen_next]
      rfl
  · exact exec_wdm halive []
  · intro hb handed
    have hwrite := exec_write_of_finished halive hm hc w hi lo ws
    obtain ⟨hwdm, hwd, hnormal, hpixels⟩ :=
      normalWordsHandedOver { s with outMode := .normal } halive rfl hb
    exact ⟨(hwrite _ (by simp)).trans (hwd w), (hwrite _ (by simp)).trans (hnormal w),
      (hwrite _ (by simp)).trans (hpixels hi lo), (hwrite _ (by simp)).trans (hwdm (w :: ws))⟩

/-! ## The back end arms a transfer -/

/-- Settles O37: the first word is delivered, and the answer arms the window that the rest meets. -/
theorem backendArmsInsideChunk : Obligations.BackendArmsInsideChunk := by
  intro w0 ws x y w h rest s halive hm hb hx hy hw hw' hh hh'
  have hrange : areaInRange s.cfg x y w h = true := by
    rw [areaInRange_iff]
    omega
  have hword : writeWord w0 s = .next { s with
      events := s.events ++ [.normalWord w0]
      backend := rest
      cout := ⟨x, y, w, h, w, h, y * 1024 + x⟩
      outMode := .vramTransfer } := by
    rw [writeWord_of_normal hm, normalWord, hb]
    simp only [runCalls, runCall, defineArea, emit_cfg, hrange, if_true, andThen_next]
    rfl
  rw [exec_wdm halive, writeChunk_cons, hword, andThen_next]
  exact (exec_wdm (s := { s with
      events := s.events ++ [.normalWord w0]
      backend := rest
      cout := ⟨x, y, w, h, w, h, y * 1024 + x⟩
      outMode := .vramTransfer }) halive ws).symm

/-! ## One word of an armed transfer -/

section Armed

variable {s : State}

/-- R176: a row that ends on the low half is left as the step leaves it. -/
theorem stepCursor_of_row_end {cells : Nat} {c : Cursor} (hrr : (advanceCell cells c).rr = 0) :
    stepCursor cells c
      = nextRow cells { advanceCell cells c with rc := (advanceCell cells c).rc - 1 } := by
  simp only [stepCursor, hrr, if_true]
  rfl

theorem stepCursor_inside_row {cells : Nat} {c : Cursor} (hrr : (advanceCell cells c).rr ≠ 0) :
    stepCursor cells c = advanceCell cells c := by
  simp only [stepCursor, hrr, if_false]

/-- R175 to R177: the low half at the cursor, then the end of the transfer or the high half one step
on. -/
theorem pixelWord_of_legal (hl : cursorLegal s.cfg s.cout = true) (w : Word) :
    pixelWord w s = .next
      (let t := setVramCell s.cout.cur (w.extractLsb' 0 16) s
       if (stepCursor s.cfg.vramCells s.cout).rc = 0 then finishWrite true t
       else putHighHalf w (stepCursor s.cfg.vramCells s.cout) t) := by
  have hrc := cursorLegal_rc_ne_zero hl
  simp only [pixelWord, hl, if_true]
  by_cases hrr : (advanceCell s.cfg.vramCells s.cout).rr = 0
  · rw [if_pos hrr, stepCursor_of_row_end hrr, ← apply_ite Host.Outcome.next]
    rfl
  · have hstep := stepCursor_inside_row hrr
    have hmore : (stepCursor s.cfg.vramCells s.cout).rc ≠ 0 := by rw [hstep]; exact hrc
    rw [if_neg hrr, if_neg hmore, hstep]

/-- The cursor past the word: the two cells, or the one that was the last. -/
def storeCursor (s : State) : Cursor :=
  afterHighRead s.cfg.vramCells (stepCursor s.cfg.vramCells s.cout)

/-- `VRAM` with the halves of the word stored. -/
def storedWord (w : Word) (s : State) : Memory :=
  let low := writeHalf s.vram s.cout.cur (w.extractLsb' 0 16)
  let c := stepCursor s.cfg.vramCells s.cout
  if c.rc = 0 then low else writeHalf low c.cur (w.extractLsb' 16 16)

/-- The state after the word. -/
def afterStore (w : Word) (s : State) : State :=
  let ended : Prop := (storeCursor s).rc = 0
  { s with
    vram := storedWord w s
    cout := if ended then Cursor.idle else storeCursor s
    outMode := if ended then .normal else s.outMode
    vsyncReady := if ended then true else s.vsyncReady }

theorem pixelWord_eq_afterStore (hl : cursorLegal s.cfg s.cout = true) (w : Word) :
    pixelWord w s = .next (afterStore w s) := by
  rw [pixelWord_of_legal hl]
  congr 1
  by_cases hlast : (stepCursor s.cfg.vramCells s.cout).rc = 0
  · simp only [afterStore, storeCursor, storedWord, afterHighRead, hlast, if_true]
    rw [finishWrite, Bool.or_true]
    rfl
  · simp only [afterStore, storeCursor, storedWord, afterHighRead, hlast, if_false, putHighHalf]
    by_cases hover : (stepCursor s.cfg.vramCells (stepCursor s.cfg.vramCells s.cout)).rc = 0
    · simp only [setVramCell_cfg, hover, if_true]
      rw [finishWrite, Bool.or_true]
      rfl
    · simp only [setVramCell_cfg, hover, if_false]
      rfl

theorem writeWord_of_armed (hm : s.outMode = .vramTransfer) (hl : cursorLegal s.cfg s.cout = true)
    (w : Word) : writeWord w s = .next (afterStore w s) := by
  simp only [writeWord, retireWrite_of_not_idle (cursorLegal_not_idle hl), hm]
  exact pixelWord_eq_afterStore hl w

end Armed

end Sys2Proof.Machine

/-! PROOFS. What the write path leaves in VRAM (41_vram_transfer.md R175 to R177, R181, R182): the
bytes of one word, and the cells of a whole window. -/

namespace Sys2Proof.Machine

/-! ## One word -/

section Word

variable {s : State}

theorem readByte_writeHalf {m : Memory} (h : memWf m) (i : Nat) (v : Half) (a : Nat) :
    readByte (writeHalf m i v) a
      = if a = 2 * i then v.extractLsb' 0 8
        else if a = 2 * i + 1 then v.extractLsb' 8 8 else readByte m a := by
  rw [writeHalf, readByte_writeByte (writeByte_wf h _ _), readByte_writeByte h]
  by_cases hlow : a = 2 * i
  · rw [if_pos hlow, if_pos hlow, if_neg (by omega)]
  · rw [if_neg hlow, if_neg hlow]

/-- One step moves the cursor by 1 to 1024 cells, less than the whole of VRAM. -/
theorem stepCursor_cur_ne {p : Params} {c : Cursor} (hl : cursorLegal p c = true) :
    (stepCursor p.vramCells c).cur ≠ c.cur := by
  have hrows := vramRows_pos p
  have hcells := vramCells_eq p
  have hmoved (d : Nat) (hd : 0 < d) (hd' : d < p.vramCells) (hc : c.cur < p.vramCells) :
      (c.cur + d) % p.vramCells ≠ c.cur := by
    by_cases hwrap : c.cur + d < p.vramCells
    · rw [Nat.mod_eq_of_lt hwrap]
      omega
    · rw [Nat.mod_eq_sub_mod (by omega), Nat.mod_eq_of_lt (by omega)]
      omega
  obtain ⟨-, -, hw, -, hrr, hrr', -, -, hcur⟩ := (cursorLegal_iff p c).1 hl
  rw [stepCursor_eq_ite hl]
  split
  · rw [Nat.add_assoc]
    exact hmoved _ (by omega) (by omega) hcur
  · exact hmoved 1 (by omega) (by omega) hcur

/-- R175, R177: which bytes a word leaves. -/
theorem readByte_storedWord (hwf : memWf s.vram) (hl : cursorLegal s.cfg s.cout = true)
    (hi lo : Half) (a : Nat) :
    let c1 := stepCursor s.cfg.vramCells s.cout
    readByte (storedWord (hi ++ lo) s) a =
      if a = 2 * s.cout.cur then lo.extractLsb' 0 8
      else if a = 2 * s.cout.cur + 1 then lo.extractLsb' 8 8
      else if c1.rc ≠ 0 ∧ a = 2 * c1.cur then hi.extractLsb' 0 8
      else if c1.rc ≠ 0 ∧ a = 2 * c1.cur + 1 then hi.extractLsb' 8 8
      else readByte s.vram a := by
  intro c1
  have hne : (stepCursor s.cfg.vramCells s.cout).cur ≠ s.cout.cur := stepCursor_cur_ne hl
  have hlow := readByte_writeHalf hwf s.cout.cur lo a
  simp only [storedWord, low_half, high_half]
  by_cases hlast : c1.rc = 0
  · simp only [c1] at hlast
    simp only [c1, hlast, if_true, ne_eq, not_true, false_and, if_false]
    exact hlow
  · have hmore : (stepCursor s.cfg.vramCells s.cout).rc ≠ 0 := hlast
    simp only [if_neg hmore, hlast, ne_eq, not_false_eq_true, true_and]
    rw [readByte_writeHalf (writeHalf_wf hwf _ _), hlow]
    by_cases hhere : a = 2 * s.cout.cur ∨ a = 2 * s.cout.cur + 1
    · rw [if_neg (by omega), if_neg (by omega)]
      obtain rfl | rfl := hhere <;> simp
    · rw [if_neg (by omega : ¬ a = 2 * s.cout.cur), if_neg (by omega : ¬ a = 2 * s.cout.cur + 1),
        if_neg (by omega : ¬ a = 2 * s.cout.cur), if_neg (by omega : ¬ a = 2 * s.cout.cur + 1)]

end Word

/-- Settles O34: the four forms are the one word of the armed transfer. -/
theorem pixelWordStores : Obligations.PixelWordStores := by
  intro hi lo s halive hwf hm hl c1 c2
  have hword := writeWord_of_armed hm hl (hi ++ lo)
  have hchunk : writeChunk [hi ++ lo] s = .next (afterStore (hi ++ lo) s) := by
    rw [writeChunk_one, hword]
  refine ⟨afterStore (hi ++ lo) s, ?_, ?_, ?_, ?_, ?_, readByte_storedWord hwf hl hi lo⟩
  · rw [exec_wdPixels halive, hword]
  · rw [exec_wd halive, hchunk]
  · rw [exec_wdNormal halive, hword]
  · rw [exec_wdm halive, hchunk]
  · have hafter : afterStore (hi ++ lo) s = { s with
        vram := storedWord (hi ++ lo) s
        cout := if c2.rc = 0 then Cursor.idle else c2
        outMode := if c2.rc = 0 then .normal else s.outMode
        vsyncReady := if c2.rc = 0 then true else s.vsyncReady } := rfl
    rw [hm] at hafter
    rw [hafter]
    rfl

/-! ## A whole window written -/

/-- `m` with the first `n` of the given cells stored, in order. -/
def storeCells (m : Memory) (cell : Nat → Nat) (half : Nat → Half) : Nat → Memory
  | 0 => m
  | n + 1 => writeHalf (storeCells m cell half n) (cell n) (half n)

section Cells

variable {m : Memory} {cell : Nat → Nat} {half : Nat → Half}

theorem storeCells_wf (hm : memWf m) (n : Nat) : memWf (storeCells m cell half n) := by
  induction n with
  | zero => exact hm
  | succ n ih => exact writeHalf_wf ih _ _

/-- A cell that is stored once holds its half. -/
theorem readHalf_storeCells (hm : memWf m) {n k : Nat} (hk : k < n)
    (hinj : ∀ i < n, cell i = cell k → i = k) :
    readHalf (storeCells m cell half n) (cell k) = half k := by
  induction n with
  | zero => exact absurd hk (Nat.not_lt_zero k)
  | succ n ih =>
    rw [storeCells, readHalf_writeHalf (storeCells_wf hm n)]
    by_cases hlast : cell k = cell n
    · rw [if_pos hlast, hinj n (Nat.lt_succ_self n) hlast.symm]
    · have hkn : k ≠ n := fun h => hlast (congrArg cell h)
      rw [if_neg hlast, ih (by omega) fun i hi => hinj i (Nat.lt_succ_of_lt hi)]

/-- A byte of no stored cell is as it was. -/
theorem readByte_storeCells (hm : memWf m) {a : Nat} (n : Nat) (ha : ∀ k < n, a / 2 ≠ cell k) :
    readByte (storeCells m cell half n) a = readByte m a := by
  induction n with
  | zero => rfl
  | succ n ih =>
    have hlast := ha n (Nat.lt_succ_self n)
    rw [storeCells, readByte_writeHalf (storeCells_wf hm n), if_neg (by omega), if_neg (by omega),
      ih fun k hk => ha k (Nat.lt_succ_of_lt hk)]

end Cells

section Upload

variable {p : Params} {x y w h : Nat}

/-- The cells of a window are distinct: their offsets stay below `1024 * h`. -/
theorem windowCell_inj (hok : WindowOk p x y w h) {k l : Nat} (hk : k < w * h) (hl : l < w * h)
    (heq : windowCell p x y w k = windowCell p x y w l) : k = l := by
  have hcells : p.vramCells = p.vramKb * 1024 := rfl
  have hw := hok.wLe
  have hh := hok.hLe
  have hoffset {i : Nat} (hi : i < w * h) :
      i % w < 1024 ∧ 1024 * (i / w) + i % w < p.vramCells := by
    have hrow : i / w < h := Nat.div_lt_of_lt_mul hi
    have hcol : i % w < w := Nat.mod_lt i hok.wPos
    omega
  obtain ⟨hkcol, hkcell⟩ := hoffset hk
  obtain ⟨hlcol, hlcell⟩ := hoffset hl
  have hmod : y * 1024 + x + (1024 * (k / w) + k % w)
      ≡ y * 1024 + x + (1024 * (l / w) + l % w) [MOD p.vramCells] := by
    rw [← Nat.add_assoc, ← Nat.add_assoc]
    exact heq
  have hsame := (hmod.add_left_cancel' _).eq_of_lt_of_lt hkcell hlcell
  have hrow : k / w = l / w := by omega
  have hcol : k % w = l % w := by omega
  rw [← Nat.mod_add_div k w, ← Nat.mod_add_div l w, hrow, hcol]

/-- The state after the last word of an upload. -/
def uploaded (m : Memory) (s : State) : State :=
  { s with vram := m, cout := Cursor.idle, outMode := .normal, vsyncReady := true }

/-- A word at cell `k` of the window stores that cell and, inside the window, the next. -/
theorem storedWord_window {m : Memory} {half : Nat → Half} {s : State} {k : Nat} {v : Word}
    (hok : WindowOk s.cfg x y w h) (hk : k < w * h) (hcout : s.cout = cursorAt s.cfg x y w h k)
    (hvram : s.vram = storeCells m (windowCell s.cfg x y w) half k)
    (hlow : half k = v.extractLsb' 0 16) (hhigh : half (k + 1) = v.extractLsb' 16 16) :
    storedWord v s = storeCells m (windowCell s.cfg x y w) half (min (k + 2) (w * h)) := by
  have hcell : s.cout.cur = windowCell s.cfg x y w k := by rw [hcout]; rfl
  have hstep : stepCursor s.cfg.vramCells s.cout = cursorAt s.cfg x y w h (k + 1) := by
    rw [hcout, stepCursor_cursorAt hok hk]
  have hnext : (cursorAt s.cfg x y w h (k + 1)).cur = windowCell s.cfg x y w (k + 1) := rfl
  simp only [storedWord, hcell, hstep, hnext, hvram, ← hlow, ← hhigh]
  by_cases hlast : k + 1 = w * h
  · rw [if_pos ((cursorAt_rc_eq_zero_iff hok hk).2 hlast), Nat.min_eq_right (by omega), ← hlast]
    rfl
  · rw [if_neg (mt (cursorAt_rc_eq_zero_iff hok hk).1 hlast), Nat.min_eq_left (by omega)]
    rfl

theorem streamHalf_cons_even (v : Word) (vs : List Word) :
    streamHalf (v :: vs) 0 = v.extractLsb' 0 16 := rfl

theorem streamHalf_cons_odd (v : Word) (vs : List Word) :
    streamHalf (v :: vs) 1 = v.extractLsb' 16 16 := rfl

theorem streamHalf_cons_add_two (v : Word) (vs : List Word) (i : Nat) :
    streamHalf (v :: vs) (i + 2) = streamHalf vs i := by
  have hword : (i + 2) / 2 = i / 2 + 1 := by omega
  have hpart : (i + 2) % 2 = i % 2 := by omega
  rw [streamHalf, hword, hpart, List.getD_cons_succ, streamHalf]

/-- R181, R182: from cell `k` on, the words that are left store the rest of the window. -/
theorem writeChunk_window {m : Memory} {half : Nat → Half} (vs : List Word) {k : Nat} {s : State}
    (hok : WindowOk s.cfg x y w h) (hm : s.outMode = .vramTransfer) (hk : k < w * h)
    (hleft : vs.length = (w * h - k + 1) / 2) (hcout : s.cout = cursorAt s.cfg x y w h k)
    (hvram : s.vram = storeCells m (windowCell s.cfg x y w) half k)
    (hhalf : ∀ i, half (k + i) = streamHalf vs i) :
    writeChunk vs s
      = .next (uploaded (storeCells m (windowCell s.cfg x y w) half (w * h)) s) := by
  induction vs generalizing k s with
  | nil =>
    rw [List.length_nil] at hleft
    omega
  | cons v vs ih =>
    rw [List.length_cons] at hleft
    have hl : cursorLegal s.cfg s.cout = true := hcout ▸ cursorAt_legal hok hk
    have hstored := storedWord_window hok hk hcout hvram
      ((hhalf 0).trans (streamHalf_cons_even v vs)) ((hhalf 1).trans (streamHalf_cons_odd v vs))
    have hcursor : storeCursor s = cursorAt s.cfg x y w h (min (k + 2) (w * h)) := by
      rw [storeCursor, hcout, afterHighRead_cursorAt hok hk]
    have hover := cursorAt_rc_eq_zero_iff hok (Nat.min_le_right (k + 2) (w * h))
    rw [writeChunk_cons, writeWord_of_armed hm hl, andThen_next]
    by_cases hlast : w * h ≤ k + 2
    · have hvs : vs = [] := List.length_eq_zero_iff.1 (by omega)
      rw [Nat.min_eq_right hlast] at hcursor hover hstored
      simp only [hvs, writeChunk, afterStore, hcursor, hover, hstored, if_true]
      rfl
    · rw [Nat.min_eq_left (by omega)] at hcursor hover hstored
      have hmore : afterStore v s = { s with
          vram := storeCells m (windowCell s.cfg x y w) half (k + 2)
          cout := cursorAt s.cfg x y w h (k + 2) } := by
        have hnot : ¬ k + 2 = w * h := by omega
        simp only [afterStore, hcursor, hover, hstored, hnot, if_false]
      have hrest (i : Nat) : half (k + 2 + i) = streamHalf vs i := by
        rw [Nat.add_assoc, Nat.add_comm 2 i, hhalf, streamHalf_cons_add_two]
      rw [hmore]
      exact ih (k := k + 2) hok hm (by omega) (by omega) rfl rfl hrest

end Upload

/-- Settles O38: the run of words stores the cells in order, and they are distinct. -/
theorem wholeWindowUpload : Obligations.WholeWindowUpload := by
  intro x y w h ws s halive hwf hm hx hy hw hw' hh hh' hcout hlen
  have hok : WindowOk s.cfg x y w h := ⟨hx, hy, hw, hw', hh, hh'⟩
  have hrun := writeChunk_window (m := s.vram) (half := streamHalf ws) ws (k := 0) hok hm
    (Nat.mul_pos hw hh) hlen (hcout.trans (cursorAt_zero hok).symm) rfl
    fun i => congrArg (streamHalf ws) (Nat.zero_add i)
  refine ⟨_, (exec_wdm halive ws).trans hrun, rfl, fun k hk => ?_, fun a ha => ?_⟩
  · exact readHalf_storeCells hwf hk fun i hi => windowCell_inj hok hi hk
  · exact readByte_storeCells hwf _ ha

end Sys2Proof.Machine

/-! PROOFS. Writes to the data port complete (41_vram_transfer.md R174; 60_exceptions.md R273,
R283): under the invariant and with allowed calls no word stops, and of `STAT` only what the back
end owns changes. -/

namespace Sys2Proof.Machine

/-! ## Allowed calls complete -/

/-- Every call that waits in the back end's script has a meaning. -/
def CallsAllowed (s : State) : Prop :=
  ∀ calls ∈ s.backend, ∀ c ∈ calls, callAllowed s.cfg c

section Complete

variable {s : State}

theorem runCall_completes {c : BackendCall} (hc : callAllowed s.cfg c) :
    ∃ t, runCall c s = .next t := by
  cases c with
  | defineArea dir x y w h => cases dir <;> exact ⟨_, if_pos hc⟩
  | busyKick => exact ⟨_, rfl⟩
  | statSet m => exact ⟨_, if_pos hc⟩
  | statClr m => exact ⟨_, if_pos hc⟩
  | infoStore e v => exact ⟨_, rfl⟩

theorem runCalls_completes (cs : List BackendCall) {s : State}
    (hcs : ∀ c ∈ cs, callAllowed s.cfg c) : ∃ t, runCalls cs s = .next t := by
  induction cs generalizing s with
  | nil => exact ⟨s, rfl⟩
  | cons c cs ih =>
    rw [List.forall_mem_cons] at hcs
    obtain ⟨hc, hcs⟩ := hcs
    obtain ⟨t, ht⟩ := runCall_completes hc
    have hcfg : t.cfg = s.cfg := by rw [runCall_frame ht]
    obtain ⟨u, hu⟩ := ih (s := t) (hcfg ▸ hcs)
    exact ⟨u, andThen_eq_next.2 ⟨t, ht, hu⟩⟩

theorem normalWord_completes (hb : CallsAllowed s) (w : Word) : ∃ t, normalWord w s = .next t := by
  cases hscript : s.backend with
  | nil => exact ⟨_, normalWord_of_silent hscript w⟩
  | cons calls rest =>
    have hcalls : ∀ c ∈ calls, callAllowed s.cfg c := hb calls (by simp [hscript])
    simp only [normalWord, hscript]
    exact runCalls_completes calls hcalls

theorem retireWrite_frame (s : State) : retireWrite s
    = { s with cout := (retireWrite s).cout, outMode := (retireWrite s).outMode } := by
  unfold retireWrite
  split
  · rw [finishWrite, Bool.or_false]
  · rfl

/-- Under the invariant a word finds its port in Normal mode, at a finished transfer, or at a legal
cursor. -/
theorem writeWord_completes (hinv : Inv s) (hb : CallsAllowed s) (w : Word) :
    ∃ t, writeWord w s = .next t := by
  cases hm : s.outMode with
  | normal =>
    rw [writeWord_of_normal hm]
    exact normalWord_completes hb w
  | vramTransfer =>
    obtain hc | hl := hinv.coutOk
    · rw [writeWord_of_finished hm hc, writeWord_of_normal rfl]
      exact normalWord_completes (s := { s with outMode := .normal }) hb w
    · exact ⟨_, writeWord_of_armed hm hl w⟩

/-- A word takes at most one answer from the script. -/
theorem writeWord_backend {w : Word} {t : State} (ht : writeWord w s = .next t) :
    t.backend = s.backend.tail ∨ t.backend = s.backend := by
  have hretire : (retireWrite s).backend = s.backend := by rw [retireWrite_frame]
  simp only [writeWord] at ht
  split at ht
  · exact .inl (by rw [normalWord_frame ht, hretire])
  · exact .inr (by rw [pixelWord_frame ht, hretire])

theorem writeWord_keeps_callsAllowed {w : Word} {t : State} (hb : CallsAllowed s)
    (ht : writeWord w s = .next t) : CallsAllowed t := by
  have hcfg : t.cfg = s.cfg := by rw [writeWord_frame ht]
  intro calls hcalls
  rw [hcfg]
  obtain htail | hsame := writeWord_backend ht
  · exact hb calls (List.mem_of_mem_tail (htail ▸ hcalls))
  · exact hb calls (hsame ▸ hcalls)

theorem writeChunk_completes (ws : List Word) {s : State} (hinv : Inv s) (hb : CallsAllowed s) :
    ∃ t, writeChunk ws s = .next t := by
  induction ws generalizing s with
  | nil => exact ⟨s, rfl⟩
  | cons w ws ih =>
    obtain ⟨t, ht⟩ := writeWord_completes hinv hb w
    obtain ⟨u, hu⟩ := ih (writeWord_keeps_inv hinv ht) (writeWord_keeps_callsAllowed hb ht)
    exact ⟨u, andThen_eq_next.2 ⟨t, ht, hu⟩⟩

/-- Every form of the write is a chunk. -/
theorem exec_write (halive : s.life ≠ .off) (ws : List Word) (w : Word) (hi lo : Half) :
    ∀ i ∈ [Instr.wdm ws, .wd w, .wdNormal w, .wdPixels hi lo],
      ∃ vs, exec i s = writeChunk vs s := by
  intro i hi
  simp only [List.mem_cons, List.not_mem_nil, or_false] at hi
  obtain rfl | rfl | rfl | rfl := hi
  · exact ⟨ws, exec_wdm halive ws⟩
  · exact ⟨[w], exec_wd halive w⟩
  · exact ⟨[w], (exec_wdNormal halive w).trans (writeChunk_one w s).symm⟩
  · exact ⟨[hi ++ lo], (exec_wdPixels halive hi lo).trans (writeChunk_one _ s).symm⟩

end Complete

/-! ## The status bits the write path may change -/

/-- Bits 15:0, which the back end owns, and `ReadyForVram` (10_state.md R33; R138, R161). -/
def writePathBits (l : StatLayout) : Word := 0x0000FFFF ||| bitAt l.readyForVram

theorem not_writePathBits (l : StatLayout) :
    0xFFFF0000 &&& ~~~bitAt l.readyForVram = ~~~writePathBits l := by
  rw [writePathBits, BitVec.not_or]
  rfl

theorem lowBits_getLsbD {k : Nat} (hk : k < 32) :
    (0x0000FFFF : Word).getLsbD k = decide (k < 16) := by
  have hbits : ∀ i : Fin 32, (0x0000FFFF : Word).getLsbD i.val = decide (i.val < 16) := by decide
  exact hbits ⟨k, hk⟩

theorem writePathBits_getLsbD {l : StatLayout} {k : Nat} (hk : k < 32)
    (hout : (writePathBits l).getLsbD k = false) : 16 ≤ k ∧ k ≠ l.readyForVram := by
  rw [writePathBits, BitVec.getLsbD_or, Bool.or_eq_false_iff, lowBits_getLsbD hk,
    bitAt_getLsbD _ hk, decide_eq_false_iff_not, decide_eq_false_iff_not] at hout
  exact ⟨Nat.not_lt.1 hout.1, hout.2⟩

/-- A mask below 65536 has no bit from 16 up. -/
theorem maskInRange_getLsbD {m : Word} (hm : maskInRange m = true) {k : Nat} (hk : 16 ≤ k) :
    m.getLsbD k = false :=
  have hpow : 65536 ≤ 2 ^ k := Nat.pow_le_pow_right (n := 2) (by decide) hk
  Nat.testBit_lt_two_pow (((maskInRange_iff m).1 hm).trans_le hpow)

/-- What one call leaves of `STAT`: every bit above 15 but `ReadyForVram`. -/
theorem runCall_stat_outside {c : BackendCall} {s t : State} (ht : runCall c s = .next t) {k : Nat}
    (hk : 16 ≤ k) (hready : k ≠ s.cfg.statLayout.readyForVram) :
    t.stat.getLsbD k = s.stat.getLsbD k := by
  cases c with
  | defineArea dir x y w h =>
    obtain ⟨-, ⟨-, rfl⟩ | ⟨-, rfl⟩⟩ := defineArea_eq_next ht
    · exact putField_getLsbD_outside (f := .readyForVram) (Nat.lt_or_gt_of_ne hready)
    · rfl
  | busyKick =>
    rw [runCall, Host.Outcome.next.injEq] at ht
    rw [← ht]
    rfl
  | infoStore e v =>
    rw [runCall, Host.Outcome.next.injEq] at ht
    rw [← ht]
    rfl
  | statSet m =>
    simp only [runCall, statSetCall] at ht
    split at ht
    case isFalse => cases ht
    case isTrue hm =>
      rw [Host.Outcome.next.injEq] at ht
      rw [← ht]
      simp only [setStat_stat, statOr, BitVec.getLsbD_or, maskInRange_getLsbD hm hk, Bool.or_false]
  | statClr m =>
    simp only [runCall, statClrCall] at ht
    split at ht
    case isFalse => cases ht
    case isTrue hm =>
      rw [Host.Outcome.next.injEq] at ht
      rw [← ht]
      by_cases h32 : k < 32
      · simp only [setStat_stat, statAndNot, BitVec.getLsbD_and, BitVec.getLsbD_not,
          maskInRange_getLsbD hm hk, h32, decide_true, Bool.not_false, Bool.and_true]
      · rw [BitVec.getLsbD_of_ge _ _ (by omega), BitVec.getLsbD_of_ge _ _ (by omega)]

/-- The parameters are those of `s`, and of `STAT` only bits 15:0 and `ReadyForVram` differ. -/
def KeepsOtherBits (s t : State) : Prop :=
  t.cfg = s.cfg ∧ t.stat &&& ~~~writePathBits s.cfg.statLayout
    = s.stat &&& ~~~writePathBits s.cfg.statLayout

theorem runCall_keepsOtherBits {c : BackendCall} {r s t : State} (hs : KeepsOtherBits r s)
    (ht : runCall c s = .next t) : KeepsOtherBits r t := by
  obtain ⟨hcfg, hstat⟩ := hs
  have hsame : t.cfg = s.cfg := by rw [runCall_frame ht]
  refine ⟨hsame.trans hcfg, Eq.trans ?_ hstat⟩
  refine and_not_eq_iff.2 fun k hk hout => ?_
  obtain ⟨hhigh, hready⟩ := writePathBits_getLsbD hk hout
  exact runCall_stat_outside ht hhigh (hcfg ▸ hready)

theorem KeepsOtherBits.of_same {r s t : State} (hs : KeepsOtherBits r s) (hcfg : t.cfg = s.cfg)
    (hstat : t.stat = s.stat) : KeepsOtherBits r t := by
  rw [KeepsOtherBits, hcfg, hstat]
  exact hs

theorem normalWord_keepsOtherBits {w : Word} {r s t : State} (hs : KeepsOtherBits r s)
    (ht : normalWord w s = .next t) : KeepsOtherBits r t := by
  cases hscript : s.backend with
  | nil =>
    rw [normalWord_of_silent hscript, Host.Outcome.next.injEq] at ht
    rw [← ht]
    exact hs.of_same rfl rfl
  | cons calls rest =>
    simp only [normalWord, hscript] at ht
    have hemit : KeepsOtherBits r { emit (.normalWord w) s with backend := rest } :=
      hs.of_same rfl rfl
    exact runCalls_keeps (P := KeepsOtherBits r) (fun _ _ _ => runCall_keepsOtherBits) calls
      hemit ht

theorem writeWord_keepsOtherBits {w : Word} {r s t : State} (hs : KeepsOtherBits r s)
    (ht : writeWord w s = .next t) : KeepsOtherBits r t := by
  have hretire : KeepsOtherBits r (retireWrite s) :=
    hs.of_same (by rw [retireWrite_frame]) (by rw [retireWrite_frame])
  simp only [writeWord] at ht
  split at ht
  · exact normalWord_keepsOtherBits hretire ht
  · exact hretire.of_same (by rw [pixelWord_frame ht]) (by rw [pixelWord_frame ht])

theorem writeChunk_keepsOtherBits {ws : List Word} {s t : State} (ht : writeChunk ws s = .next t) :
    KeepsOtherBits s t :=
  writeChunk_keeps (P := KeepsOtherBits s) (fun _ _ _ => writeWord_keepsOtherBits) ws ⟨rfl, rfl⟩ ht

/-- Settles O39: each form is a chunk, which completes and writes what a chunk can write. -/
theorem dataWritesComplete : Obligations.DataWritesComplete := by
  intro ws w hi lo s hinv halive hcalls i hmem
  obtain ⟨vs, hexec⟩ := exec_write halive ws w hi lo i hmem
  obtain ⟨t, ht⟩ := writeChunk_completes vs hinv hcalls
  refine ⟨t, hexec.trans ht, writeChunk_frame ht, ?_⟩
  obtain ⟨-, hbits⟩ := writeChunk_keepsOtherBits ht
  simp only [not_writePathBits]
  exact hbits

end Sys2Proof.Machine

/-! PROOFS. The chain walker (42_dma_chain.md R191 to R199): a walk delivers, one after another, the
nodes that memory leads through, and stops at the first that runs past the end of memory. -/

namespace Sys2Proof.Machine

/-! ## A walk as a delivery of its nodes -/

/-- The walk's memory and parameters, which no delivery writes (20_memory.md R81). -/
def SameMemory (r s : State) : Prop := s.sysMem = r.sysMem ∧ s.cfg = r.cfg

/-- The payload of a node as memory `r` holds it, or the refusal of a node that runs past its end
(R196). -/
def deliverNodes (r : State) : List Addr → State → Res State
  | [], s => .next s
  | a :: as, s =>
    if nodeInside r a then andThen (writeChunk (payloadAt r a) s) (deliverNodes r as)
    else .refused .chainOutOfMemory

section Deliver

variable {r s : State}

theorem SameMemory.writeChunk {ws : List Word} {t : State} (h : SameMemory r s)
    (ht : writeChunk ws s = .next t) : SameMemory r t := by
  rw [SameMemory, writeChunk_frame ht]
  exact h

theorem payloadWords_eq (s : State) (i n : Nat) :
    payloadWords s i n = (List.range n).map fun j => readWord s.sysMem (4 * (i + j)) := by
  refine List.ext_getElem? fun k => ?_
  by_cases hk : k < n
  · rw [payloadWords_getElem? s i n k hk]
    simp [hk]
  · rw [List.getElem?_eq_none (by rw [payloadWords_length]; omega),
      List.getElem?_eq_none (by simp; omega)]

theorem payloadWords_of_same (h : SameMemory r s) (a : Addr) (count : BitVec 8) :
    payloadWords s (wordIndex a + 1) count.toNat = nodePayload r a count := by
  rw [payloadWords_eq, h.1]
  rfl

theorem deliverNode_of_inside (h : SameMemory r s) {a : Addr} {hdr : Word}
    (hin : a.toNat / 4 + (headerCount hdr).toNat < r.cfg.memWords) :
    deliverNode a hdr s = writeChunk (nodePayload r a (headerCount hdr)) s := by
  rw [deliverNode, payloadWords_of_same h, h.2]
  exact if_pos hin

theorem deliverNode_of_outside (h : SameMemory r s) {a : Addr} {hdr : Word}
    (hout : ¬ a.toNat / 4 + (headerCount hdr).toNat < r.cfg.memWords) :
    deliverNode a hdr s = .refused .chainOutOfMemory := by
  rw [deliverNode, h.2]
  exact if_neg hout

/-- R193, R196: one turn of the walk, its header read and its payload delivered. -/
theorem deliverHeader_eq (h : SameMemory r s) (a : Addr) (f : Word → State → Res State) :
    andThen (baseWord s (wordIndex a)) (fun hdr => andThen (deliverNode a hdr s) (f hdr))
      = if nodeInside r a then andThen (writeChunk (payloadAt r a) s) (f (headerAt r a))
        else .refused .chainOutOfMemory := by
  by_cases hheader : wordIndex a < r.cfg.memWords
  · have hbase : baseWord s (wordIndex a) = .next (headerAt r a) := by
      rw [baseWord, h.2, h.1]
      exact if_pos hheader
    rw [hbase, andThen_next]
    by_cases hin : nodeInside r a
    · rw [if_pos hin, deliverNode_of_inside h hin]
      rfl
    · rw [if_neg hin, deliverNode_of_outside h hin, andThen_refused]
  · have hbase : baseWord s (wordIndex a) = .refused .chainOutOfMemory := by
      rw [baseWord, h.2]
      exact if_neg hheader
    have hout : ¬ nodeInside r a := fun hin => hheader (lt_of_le_of_lt (Nat.le_add_right _ _) hin)
    rw [hbase, andThen_refused, if_neg hout]

/-- The nodes of a walk, by the test with which the walk enters a node. -/
theorem nodesFrom_succ (r : State) (n : Nat) (k : Walk) :
    nodesFrom r (n + 1) k.addr k.seen1 k.seen2
      = (enterNode r.cfg k).elim [] fun a =>
          a :: nodesFrom r n (headerNext (headerAt r a)) (some a) k.seen1 := by
  by_cases hend : k.addr = Config.chainEnd
  · simp [nodesFrom, enterNode, hend]
  · by_cases hseen : k.seen1 = some (k.addr &&& r.cfg.addrMask)
        ∨ k.seen2 = some (k.addr &&& r.cfg.addrMask)
    · simp only [nodesFrom, enterNode, if_pos hseen, hend, false_or, if_false, Option.elim_none]
    · simp only [nodesFrom, enterNode, if_neg hseen, hend, false_or, if_false, Option.elim_some]

/-- A walk delivers the nodes that memory leads through. -/
theorem chainWalk_eq_deliverNodes (n : Nat) {k : Walk} {s : State} (h : SameMemory r s) :
    chainWalk n k s = deliverNodes r (nodesFrom r n k.addr k.seen1 k.seen2) s := by
  induction n generalizing k s with
  | zero => rfl
  | succ n ih =>
    rw [nodesFrom_succ, ← h.2]
    cases henter : enterNode s.cfg k with
    | none =>
      simp only [chainWalk, henter]
      rfl
    | some a =>
      simp only [chainWalk, henter, deliverHeader_eq h a fun hdr => chainWalk n (leaveNode k a hdr)]
      rw [Option.elim_some, deliverNodes]
      by_cases hin : nodeInside r a
      · rw [if_pos hin, if_pos hin]
        cases hchunk : writeChunk (payloadAt r a) s with
        | next t => exact ih (h.writeChunk hchunk)
        | fault e => rfl
        | refused q => rfl
      · rw [if_neg hin, if_neg hin]

theorem deliverNodes_of_inside (as : List Addr) {s : State} (hin : ∀ a ∈ as, nodeInside r a) :
    deliverNodes r as s = writeChunk (as.flatMap (payloadAt r)) s := by
  induction as generalizing s with
  | nil => rfl
  | cons a as ih =>
    rw [List.forall_mem_cons] at hin
    obtain ⟨ha, has⟩ := hin
    rw [deliverNodes, if_pos ha, List.flatMap_cons, writeChunk_append]
    congr 1
    funext t
    exact ih has

theorem deliverNodes_eq_next (as : List Addr) {s t : State} (ht : deliverNodes r as s = .next t) :
    ∀ a ∈ as, nodeInside r a := by
  induction as generalizing s with
  | nil => exact fun _ ha => absurd ha List.not_mem_nil
  | cons a as ih =>
    rw [deliverNodes] at ht
    split at ht
    case isFalse => cases ht
    case isTrue ha =>
      obtain ⟨u, -, hu⟩ := andThen_eq_next.1 ht
      exact List.forall_mem_cons.2 ⟨ha, ih hu⟩

/-- R196: the walk stops at the first node that runs past the end of memory. -/
theorem deliverNodes_outside {before after : List Addr} {b : Addr} {s t : State}
    (hin : ∀ a ∈ before, nodeInside r a) (hout : ¬ nodeInside r b)
    (ht : writeChunk (before.flatMap (payloadAt r)) s = .next t) :
    deliverNodes r (before ++ b :: after) s = .refused .chainOutOfMemory := by
  induction before generalizing s with
  | nil => exact if_neg hout
  | cons a before ih =>
    rw [List.forall_mem_cons] at hin
    obtain ⟨ha, hbefore⟩ := hin
    rw [List.flatMap_cons, writeChunk_append] at ht
    obtain ⟨u, hu, ht⟩ := andThen_eq_next.1 ht
    rw [List.cons_append, deliverNodes, if_pos ha, hu, andThen_next]
    exact ih hbefore ht

end Deliver

/-! ## The three transactions -/

section Exec

variable {s : State} (halive : s.life ≠ .off)

/-- The last node is a node whose next field holds the sentinel. -/
theorem exec_chainEnd (s : State) (node : Addr) (count : BitVec 8) :
    exec (.chainEnd node count) s = exec (.chainNode node count Config.chainEnd) s := rfl

theorem walkFromHeader_eq {node : Addr} {hdr : Word} (hcap : 0 < s.cfg.chainIterCap)
    (hnode : node ≠ Config.chainEnd) :
    walkFromHeader node hdr s
      = andThen (deliverNode (node &&& s.cfg.addrMask) hdr s) (deliverNodes s
          (nodesFrom s (s.cfg.chainIterCap - 1) (headerNext hdr) (some (node &&& s.cfg.addrMask))
            none)) := by
  obtain ⟨n, hn⟩ : ∃ n, s.cfg.chainIterCap = n + 1 := ⟨s.cfg.chainIterCap - 1, by omega⟩
  have henter : enterNode s.cfg (walkFrom node) = some (node &&& s.cfg.addrMask) := by
    simp [enterNode, walkFrom, hnode]
  simp only [walkFromHeader, hn, henter, Nat.add_sub_cancel]
  cases hdeliver : deliverNode (node &&& s.cfg.addrMask) hdr s with
  | next t =>
    obtain ⟨-, hchunk⟩ := deliverNode_eq_next hdeliver
    exact chainWalk_eq_deliverNodes n (SameMemory.writeChunk ⟨rfl, rfl⟩ hchunk)
  | fault e => rfl
  | refused q => rfl

include halive

theorem exec_chain (start : Word) : exec (.chain start) s
    = deliverNodes s (nodesFrom s s.cfg.chainIterCap (start.extractLsb' 0 24) none none) s := by
  have hwalk : exec (.chain start) s
      = chainWalk s.cfg.chainIterCap (walkFrom (start.extractLsb' 0 24)) s :=
    exec_of_alive (k := fun s => chainWalk s.cfg.chainIterCap (walkFrom (start.extractLsb' 0 24)) s)
      halive rfl
  rw [hwalk]
  exact chainWalk_eq_deliverNodes _ ⟨rfl, rfl⟩

/-- A chain whose nodes all lie inside memory is one chunk. -/
theorem exec_chain_inside {start : Word} {nodes : List Addr}
    (hnodes : nodesFrom s s.cfg.chainIterCap (start.extractLsb' 0 24) none none = nodes)
    (hin : ∀ a ∈ nodes, nodeInside s a) :
    exec (.chain start) s = exec (.wdm (nodes.flatMap (payloadAt s))) s := by
  rw [exec_chain halive, hnodes, deliverNodes_of_inside nodes hin, exec_wdm halive]

theorem exec_chainNode {node next : Addr} {count : BitVec 8} (hcap : 0 < s.cfg.chainIterCap)
    (hnode : node ≠ Config.chainEnd)
    (hin : (node &&& s.cfg.addrMask).toNat / 4 + count.toNat < s.cfg.memWords) :
    exec (.chainNode node count next) s
      = andThen (writeChunk (nodePayload s (node &&& s.cfg.addrMask) count) s) (deliverNodes s
          (nodesFrom s (s.cfg.chainIterCap - 1) next (some (node &&& s.cfg.addrMask)) none)) := by
  obtain ⟨hcount, hnext⟩ := headerWord_fields count next
  rw [exec_of_alive (k := walkFromHeader node (headerWord count next)) halive rfl,
    walkFromHeader_eq hcap hnode, deliverNode_of_inside ⟨rfl, rfl⟩ (hcount.symm ▸ hin),
    hcount, hnext]

theorem exec_chainNode_outside {node next : Addr} {count : BitVec 8}
    (hcap : 0 < s.cfg.chainIterCap) (hnode : node ≠ Config.chainEnd)
    (hout : ¬ (node &&& s.cfg.addrMask).toNat / 4 + count.toNat < s.cfg.memWords) :
    exec (.chainNode node count next) s = .refused .chainOutOfMemory := by
  obtain ⟨hcount, -⟩ := headerWord_fields count next
  rw [exec_of_alive (k := walkFromHeader node (headerWord count next)) halive rfl,
    walkFromHeader_eq hcap hnode, deliverNode_of_outside ⟨rfl, rfl⟩ (hcount.symm ▸ hout),
    andThen_refused]

/-- What a walk that is one chunk does in Normal mode. -/
theorem exec_chunk_silent {i : Instr} {payload : List Word}
    (hchunk : exec i s = exec (.wdm payload) s) (hm : s.outMode = .normal) (hb : s.backend = []) :
    exec i s = .next { s with events := s.events ++ handedOver payload } := by
  rw [hchunk, exec_wdm halive, writeChunk_of_normal payload hm hb]

end Exec

/-! ## The nodes of a laid chain -/

section Nodes

variable {s : State}

theorem nodesFrom_chainEnd (s : State) (n : Nat) (seen1 seen2 : Option Addr) :
    nodesFrom s n Config.chainEnd seen1 seen2 = [] := by
  cases n with
  | zero => rfl
  | succ n => simp only [nodesFrom, true_or, if_true]

/-- The walk enters a node it has not seen among the last two. -/
theorem nodesFrom_enter {n : Nat} {next a : Addr} {seen1 seen2 : Option Addr}
    (hnext : next ≠ Config.chainEnd) (hmask : next &&& s.cfg.addrMask = a)
    (hseen1 : seen1 ≠ some a) (hseen2 : seen2 ≠ some a) :
    nodesFrom s (n + 1) next seen1 seen2
      = a :: nodesFrom s n (headerNext (headerAt s a)) (some a) seen1 := by
  subst hmask
  simp only [nodesFrom, hnext, hseen1, hseen2, or_self, if_false]

/-- The first node of a walk. -/
theorem nodesFrom_start {n : Nat} {next a : Addr} (hnext : next ≠ Config.chainEnd)
    (hmask : next &&& s.cfg.addrMask = a) :
    nodesFrom s (n + 1) next none none
      = a :: nodesFrom s n (headerNext (headerAt s a)) (some a) none :=
  nodesFrom_enter hnext hmask (Option.some_ne_none a).symm (Option.some_ne_none a).symm

theorem nodesFrom_seen {n : Nat} {next a : Addr} {seen1 seen2 : Option Addr}
    (hmask : next &&& s.cfg.addrMask = a) (hseen : seen1 = some a ∨ seen2 = some a) :
    nodesFrom s n next seen1 seen2 = [] := by
  subst hmask
  cases n with
  | zero => rfl
  | succ n => simp only [nodesFrom, hseen, or_true, if_true]

/-- R195: at most the given number of nodes. -/
theorem nodesFrom_length_le (s : State) (n : Nat) (next : Addr) (seen1 seen2 : Option Addr) :
    (nodesFrom s n next seen1 seen2).length ≤ n := by
  induction n generalizing next seen1 seen2 with
  | zero => exact le_rfl
  | succ n ih =>
    rw [nodesFrom]
    split
    · exact Nat.zero_le _
    · exact Nat.succ_le_succ (ih _ _ _)

theorem chainLeads_inside {next last : Addr} {nodes : List Addr}
    (h : chainLeads s next nodes last) : ∀ a ∈ nodes, nodeInside s a := by
  induction nodes generalizing next with
  | nil => exact fun _ ha => absurd ha List.not_mem_nil
  | cons a nodes ih =>
    obtain ⟨-, -, hin, hrest⟩ := h
    exact List.forall_mem_cons.2 ⟨hin, ih hrest⟩

/-- R199 (c): a laid chain of distinct nodes, none of them seen before, is walked to its end. -/
theorem nodesFrom_of_chainLaid {n : Nat} {next : Addr} {nodes : List Addr}
    {seen1 seen2 : Option Addr} (h : chainLaid s next nodes) (hdistinct : nodes.Nodup)
    (hseen : ∀ a ∈ nodes, seen1 ≠ some a ∧ seen2 ≠ some a) (hlen : nodes.length ≤ n) :
    nodesFrom s n next seen1 seen2 = nodes := by
  induction nodes generalizing n next seen1 seen2 with
  | nil =>
    have hend : next = Config.chainEnd := h
    rw [hend, nodesFrom_chainEnd]
  | cons a nodes ih =>
    obtain ⟨hnext, hmask, -, hrest⟩ := h
    obtain ⟨ha, hdistinct⟩ := List.nodup_cons.1 hdistinct
    obtain ⟨⟨hseen1, hseen2⟩, hseen⟩ := List.forall_mem_cons.1 hseen
    rw [List.length_cons] at hlen
    obtain ⟨n, rfl⟩ : ∃ m, n = m + 1 := ⟨n - 1, by omega⟩
    have hnew (c : Addr) (hc : c ∈ nodes) : some a ≠ some c ∧ seen1 ≠ some c :=
      ⟨fun heq => ha (Option.some.inj heq ▸ hc), (hseen c hc).1⟩
    rw [nodesFrom_enter hnext hmask hseen1 hseen2, ih hrest hdistinct hnew (by omega)]

end Nodes

/-- Settles O40: after the last node the next field holds the sentinel. -/
theorem chainEndDelivers : Obligations.ChainEndDelivers := by
  intro node count s halive hcap hnode a hin
  have hchunk : exec (.chainEnd node count) s = exec (.wdm (nodePayload s a count)) s := by
    rw [exec_chainEnd, exec_chainNode halive hcap hnode hin, nodesFrom_chainEnd,
      exec_wdm halive]
    exact andThen_pure _
  exact ⟨hchunk, exec_chunk_silent halive hchunk⟩

/-- Settles O41: the nodes after the first are those of the chain laid after it. -/
theorem chainNodeDelivers : Obligations.ChainNodeDelivers := by
  intro node next count nodes s halive hnode a hin hdistinct hlen hlaid payload
  obtain ⟨ha, hnodes⟩ := List.nodup_cons.1 hdistinct
  have hseen (c : Addr) (hc : c ∈ nodes) : some a ≠ some c ∧ (none : Option Addr) ≠ some c :=
    ⟨fun heq => ha (Option.some.inj heq ▸ hc), nofun⟩
  have hchunk : exec (.chainNode node count next) s = exec (.wdm payload) s := by
    rw [exec_chainNode halive (by omega) hnode hin,
      nodesFrom_of_chainLaid hlaid hnodes hseen (by omega), exec_wdm halive, writeChunk_append]
    congr 1
    funext t
    exact deliverNodes_of_inside nodes (chainLeads_inside hlaid)
  exact ⟨hchunk, exec_chunk_silent halive hchunk⟩

/-- Settles O42: the walk enters the nodes of the list. -/
theorem chainListDelivered : Obligations.ChainListDelivered := by
  intro start nodes s halive hdistinct hlen hlaid
  have hnodes := nodesFrom_of_chainLaid (seen1 := none) (seen2 := none) hlaid hdistinct
    (fun _ _ => ⟨nofun, nofun⟩) hlen
  have hchunk := exec_chain_inside halive hnodes (chainLeads_inside hlaid)
  exact ⟨hchunk, exec_chunk_silent halive hchunk⟩

/-- R199 (a), (b): the walk sees a self-loop or a two-cycle by its two last nodes. -/
theorem nodesFrom_two_cycle {s : State} {start a b : Addr} {n : Nat}
    (hstart : start ≠ Config.chainEnd) (hmask : start &&& s.cfg.addrMask = a)
    (hnextA : headerNext (headerAt s a) ≠ Config.chainEnd)
    (hmaskA : headerNext (headerAt s a) &&& s.cfg.addrMask = b)
    (hmaskB : headerNext (headerAt s b) &&& s.cfg.addrMask = a) :
    nodesFrom s (n + 2) start none none = if a = b then [a] else [a, b] := by
  rw [nodesFrom_start hstart hmask]
  by_cases hab : a = b
  · rw [if_pos hab, nodesFrom_seen hmaskA (.inl (congrArg some hab))]
  · have hseen : some a ≠ some b := fun heq => hab (Option.some.inj heq)
    rw [if_neg hab, nodesFrom_enter hnextA hmaskA hseen (Option.some_ne_none b).symm,
      nodesFrom_seen hmaskB (.inr rfl)]

/-- Settles O43: the walk enters each of the two nodes once. -/
theorem chainCyclesStop : Obligations.ChainCyclesStop := by
  intro start a b s halive hcap hstart hmask hinA hinB hnextA hmaskA _ hmaskB payload
  obtain ⟨n, hn⟩ : ∃ n, s.cfg.chainIterCap = n + 2 := ⟨s.cfg.chainIterCap - 2, by omega⟩
  have hnodes : nodesFrom s s.cfg.chainIterCap (start.extractLsb' 0 24) none none
      = if a = b then [a] else [a, b] := by
    rw [hn, nodesFrom_two_cycle hstart hmask hnextA hmaskA hmaskB]
  have hin : ∀ c ∈ if a = b then [a] else [a, b], nodeInside s c := by
    split <;> simp [hinA, hinB]
  have hchunk : exec (.chain start) s = exec (.wdm payload) s := by
    rw [exec_chain_inside halive hnodes hin]
    by_cases hab : a = b <;> simp [payload, hab]
  exact ⟨hchunk, exec_chunk_silent halive hchunk⟩

/-! ## Longer cycles -/

section Ring

variable {s : State} {ring : List Addr}

/-- From each node on, memory leads through the rest of the chain. -/
theorem chainLeads_drop {next last : Addr} {nodes : List Addr} (h : chainLeads s next nodes last)
    {i : Nat} (hi : i < nodes.length) :
    chainLeads s (headerNext (headerAt s nodes[i])) (nodes.drop (i + 1)) last := by
  induction nodes generalizing next i with
  | nil => exact absurd hi (Nat.not_lt_zero i)
  | cons a nodes ih =>
    obtain ⟨-, -, -, hrest⟩ := h
    cases i with
    | zero => exact hrest
    | succ i => exact ih hrest (Nat.lt_of_succ_lt_succ hi)

/-- The node the walk enters as its number `j` on a ring. -/
def ringNode (ring : List Addr) (j : Nat) : Addr := ring.getD (j % ring.length) 0

theorem ringNode_of_lt {j : Nat} (hj : j % ring.length < ring.length) :
    ringNode ring j = ring[j % ring.length] :=
  List.getD_eq_getElem _ _ hj

/-- Memory leads from each node of a ring to the next, from the last back to the first. -/
theorem ringNode_next {first back : Addr} (hpos : 0 < ring.length)
    (hleads : chainLeads s first ring back) (hback : back ≠ Config.chainEnd)
    (hhead : ring.head? = some (back &&& s.cfg.addrMask)) (j : Nat) :
    headerNext (headerAt s (ringNode ring j)) ≠ Config.chainEnd
      ∧ headerNext (headerAt s (ringNode ring j)) &&& s.cfg.addrMask = ringNode ring (j + 1) := by
  have hj : j % ring.length < ring.length := Nat.mod_lt j hpos
  have hdrop := chainLeads_drop hleads hj
  rw [ringNode_of_lt hj]
  by_cases hlast : j % ring.length + 1 = ring.length
  · obtain ⟨-, hmod⟩ := next_of_row_end hpos hlast
    rw [hlast, List.drop_length] at hdrop
    have hnext : headerNext (headerAt s ring[j % ring.length]) = back := hdrop
    have hfirst : ringNode ring (j + 1) = back &&& s.cfg.addrMask := by
      rw [ringNode, hmod, List.getD_eq_getElem?_getD, ← List.head?_eq_getElem?, hhead]
      rfl
    rw [hnext, hfirst]
    exact ⟨hback, rfl⟩
  · have hlt : j % ring.length + 1 < ring.length := by omega
    obtain ⟨-, hmod⟩ := next_inside_row hlt
    rw [List.drop_eq_getElem_cons hlt] at hdrop
    obtain ⟨hnext, hmask, -⟩ := hdrop
    have hnode : ringNode ring (j + 1) = ring[j % ring.length + 1] := by
      rw [ringNode, hmod, List.getD_eq_getElem _ _ hlt]
    rw [hnode]
    exact ⟨hnext, hmask⟩

/-- Nodes of a ring less than a round apart are distinct. -/
theorem ringNode_ne (hdistinct : ring.Nodup) {j d : Nat} (hd : 0 < d) (hd' : d < ring.length) :
    ringNode ring j ≠ ringNode ring (j + d) := by
  have hpos : 0 < ring.length := by omega
  intro heq
  rw [ringNode_of_lt (Nat.mod_lt j hpos), ringNode_of_lt (Nat.mod_lt (j + d) hpos),
    hdistinct.getElem_inj_iff] at heq
  have hzero : 0 ≡ d [MOD ring.length] := Nat.ModEq.add_left_cancel' j heq
  have := hzero.eq_of_lt_of_lt hpos hd'
  omega

/-- R199 (d): on a ring of three or more the walk never meets one of its two last nodes. -/
theorem nodesFrom_ring (hlen : 3 ≤ ring.length) (hdistinct : ring.Nodup)
    (hnext : ∀ j, headerNext (headerAt s (ringNode ring j)) ≠ Config.chainEnd
      ∧ headerNext (headerAt s (ringNode ring j)) &&& s.cfg.addrMask = ringNode ring (j + 1))
    (n : Nat) {j : Nat} {next : Addr} {seen1 seen2 : Option Addr} (hstart : next ≠ Config.chainEnd)
    (hmask : next &&& s.cfg.addrMask = ringNode ring j) (hseen1 : seen1 ≠ some (ringNode ring j))
    (hseen1' : seen1 ≠ some (ringNode ring (j + 1))) (hseen2 : seen2 ≠ some (ringNode ring j)) :
    nodesFrom s n next seen1 seen2 = (List.range' j n).map (ringNode ring) := by
  induction n generalizing j next seen1 seen2 with
  | zero => rfl
  | succ n ih =>
    obtain ⟨hstart', hmask'⟩ := hnext j
    have hone : some (ringNode ring j) ≠ some (ringNode ring (j + 1)) :=
      fun heq => ringNode_ne hdistinct Nat.one_pos (by omega) (Option.some.inj heq)
    have htwo : some (ringNode ring j) ≠ some (ringNode ring (j + 1 + 1)) :=
      fun heq => ringNode_ne hdistinct Nat.two_pos (by omega) (Option.some.inj heq)
    rw [nodesFrom_enter hstart hmask hseen1 hseen2, ih hstart' hmask' hone htwo hseen1',
      List.range'_succ, List.map_cons]

/-- The walk round a ring, from its start. -/
theorem nodesFrom_ring_start {start back : Addr} (hlen : 3 ≤ ring.length) (hdistinct : ring.Nodup)
    (hleads : chainLeads s start ring back) (hback : back ≠ Config.chainEnd)
    (hhead : ring.head? = some (back &&& s.cfg.addrMask)) (n : Nat) :
    nodesFrom s n start none none = (List.range n).map (ringNode ring) := by
  have hnext := ringNode_next (by omega) hleads hback hhead
  rw [List.range_eq_range']
  cases ring with
  | nil => exact absurd hlen (by simp)
  | cons a rest =>
    obtain ⟨hstart, hmask, -⟩ := hleads
    exact nodesFrom_ring hlen hdistinct hnext n hstart hmask nofun nofun nofun

end Ring

/-- Settles O44: a walk delivers the nodes that memory leads through. -/
theorem chainAtMostCap : Obligations.ChainAtMostCap := by
  intro start s halive cap nodes
  refine ⟨nodesFrom_length_le s _ _ _ _, exec_chain_inside halive rfl, fun t ht => ?_,
    fun ring back hlen hdistinct hleads hback hhead => ?_⟩
  · rw [exec_chain halive] at ht
    exact deliverNodes_eq_next nodes ht
  · have hnodes : nodes = (List.range cap).map (ringNode ring) :=
      nodesFrom_ring_start hlen hdistinct hleads hback hhead cap
    have hin : ∀ a ∈ (List.range cap).map (ringNode ring), nodeInside s a := by
      intro a ha
      obtain ⟨j, -, rfl⟩ := List.mem_map.1 ha
      have hj : j % ring.length < ring.length := Nat.mod_lt j (by omega)
      rw [ringNode_of_lt hj]
      exact chainLeads_inside hleads _ (List.getElem_mem hj)
    refine ⟨by rw [hnodes, List.length_map, List.length_range], ?_⟩
    rw [exec_chain_inside halive hnodes hin, List.flatMap_map]
    rfl

/-- Settles O45: the walk stops at the first node outside. -/
theorem chainOutOfMemory : Obligations.ChainOutOfMemory := by
  intro start node next count s halive hcap first a
  refine ⟨fun hfirst hout => ?_, fun before after b t hnodes hin hout ht => ?_,
    fun hnode hout => ?_, fun hnode hfirst before after b t hnodes hin hout ht => ?_⟩
  · obtain ⟨n, hn⟩ : ∃ n, s.cfg.chainIterCap = n + 1 := ⟨s.cfg.chainIterCap - 1, by omega⟩
    rw [exec_chain halive, hn, nodesFrom_start hfirst rfl]
    exact if_neg hout
  · rw [exec_wdm halive] at ht
    rw [exec_chain halive, hnodes, deliverNodes_outside hin hout ht]
  · have houtside (next : Addr) :
        exec (.chainNode node count next) s = .refused .chainOutOfMemory :=
      exec_chainNode_outside halive hcap hnode (Nat.not_lt.2 hout)
    exact ⟨houtside next, houtside Config.chainEnd⟩
  · rw [exec_wdm halive, writeChunk_append] at ht
    obtain ⟨u, hu, ht⟩ := andThen_eq_next.1 ht
    rw [exec_chainNode halive hcap hnode hfirst, hu, andThen_next, hnodes,
      deliverNodes_outside hin hout ht]

end Sys2Proof.Machine

/-! PROOFS. The lifecycle (43_freeze_lifecycle.md R220 to R226), and the freeze modes that leave the
block as it is (R211, R217, R219). -/

namespace Sys2Proof.Machine

/-! ## Out of their lifecycle -/

section Life

variable {s : State}

/-- R220: every transaction but `INIT` needs a block that is not off. -/
theorem exec_of_off (hoff : s.life = .off) {i : Instr} (hi : ∀ b, i ≠ .init b) :
    exec i s = .refused .lifecycle := by
  have hready : s.life ≠ .ready := by simp [hoff]
  have hopened : s.life ≠ .opened := by simp [hoff]
  cases i with
  | init b => exact absurd rfl (hi b)
  | shutdown => exact if_neg hready
  | openPort => exact if_neg hready
  | closePort => exact if_neg hopened
  | vsync => exact if_neg hopened
  | _ => exact if_pos hoff

end Life

/-- Settles O54: the lifecycle test of each transaction fails. -/
theorem lifecycleRefusals : Obligations.LifecycleRefusals := by
  refine fun s => ⟨fun hoff i hi => exec_of_off hoff hi, fun hready b i hi => ?_,
    fun hopened b i hi => ?_⟩
  · simp only [List.mem_cons, List.not_mem_nil, or_false] at hi
    obtain rfl | rfl | rfl := hi
    · exact if_neg (by simp [hready])
    · exact if_neg (by simp [hready])
    · exact if_neg (by simp [hready])
  · simp only [List.mem_cons, List.not_mem_nil, or_false] at hi
    obtain rfl | rfl | rfl := hi
    · exact if_neg (by simp [hopened])
    · exact if_neg (by simp [hopened])
    · exact if_neg (by simp [hopened])

/-! ## `INIT`, `OPEN`, `CLOSE` and `SHUTDOWN` -/

/-- Settles O52: in `Off` the cold reset runs when its memory and its parameters are good. -/
theorem initResult : Obligations.InitResult := by
  intro s hoff
  have hinit : exec (.init true) s
      = if paramsOk s.cfgSource then .next (initEffect s) else .refused .badParameters :=
    if_pos hoff
  refine ⟨if_pos hoff, fun hbad => ?_, fun hok => ?_⟩
  · exact hinit.trans (if_neg (by simp [hbad]))
  · intro rate
    exact ⟨initEffect s, hinit.trans (if_pos hok), rfl⟩

/-- The state after `OPEN`, from its one clock reading (R223). -/
def openedState (s : State) : State :=
  let r := readClock (emit .apiSet { s with life := .opened })
  { r.2 with ft := { r.2.ft with
      nextUpdate := r.1, lastMeasure := r.1, lastDisplay := r.1, laceCount := 0 } }

theorem exec_openPort {s : State} (hready : s.life = .ready) :
    exec .openPort s = .next (openedState s) :=
  if_pos hready

/-- The next supplied reading is the one that is taken (44_frame_timer.md R240). -/
theorem readClock_of_supplied {s : State} {d : Nat} {ds : List Nat} (h : s.clock.ticks = d :: ds) :
    readClock s = (s.clock.now + d, { s with clock := ⟨s.clock.now + d, ds⟩ }) := by
  simp only [readClock, h]

theorem openedState_frame (s : State) : openedState s = { s with
    life := .opened
    events := s.events ++ [.apiSet]
    clock := (openedState s).clock
    freeCount := (openedState s).freeCount
    ft := { s.ft with
      nextUpdate := (openedState s).clock.now, lastMeasure := (openedState s).clock.now
      lastDisplay := (openedState s).clock.now, laceCount := 0 } } := by
  obtain ⟨-, hnow, hframe⟩ := readClock_spec (emit .apiSet { s with life := .opened })
  have hclock :
    (openedState s).clock.now = (readClock (emit .apiSet { s with life := .opened })).1 :=
    hnow
  rw [hclock]
  unfold openedState
  simp only
  rw [hframe]
  rfl

/-- Settles O53: `OPEN` loads its three registers from one reading. -/
theorem openCloseShutdown : Obligations.OpenCloseShutdown := by
  refine fun s => ⟨fun hready => ⟨if_pos hready, openedState s, exec_openPort hready,
    ?_, openedState_frame s, fun d ds hticks => ?_⟩, fun hopened => if_pos hopened⟩
  · obtain ⟨hle, hnow, -⟩ := readClock_spec (emit .apiSet { s with life := .opened })
    exact hle.trans hnow.ge
  · have hread := readClock_of_supplied (s := emit .apiSet { s with life := .opened }) hticks
    simp only [openedState, hread]
    exact ⟨rfl, rfl⟩

/-! ## Freeze modes without work -/

/-- R211: an image too small for the mode. -/
theorem needImage_of_lt {size : Nat} {s : State} (h : s.img.size < size) (k : State → Res State) :
    needImage size s k = .refused .freezeImageSize := if_neg (Nat.not_le.2 h)

/-- R217: the slot number is the image's first word, at most 8. -/
theorem freezeInfoMode_eq (s : State) : freezeInfoMode s =
    if s.img.size < 4 then .refused .freezeImageSize
    else if (readWord s.img.bytes 0).toNat ≤ 8 then
      .next { s with saveSlot := (readWord s.img.bytes 0).toNat, answer := .code 1 }
    else .next { s with answer := .code 0 } := by
  rw [freezeInfoMode]
  by_cases hshort : s.img.size < 4
  · rw [needImage_of_lt hshort, if_pos hshort]
  · rw [needImage_of_le (Nat.not_lt.1 hshort), if_neg hshort]
    by_cases hslot : (readWord s.img.bytes 0).toNat ≤ 8
    · rw [if_pos hslot]
      exact congrArg Host.Outcome.next (if_pos hslot)
    · rw [if_neg hslot]
      exact congrArg Host.Outcome.next (if_neg hslot)

theorem freezeByMode_unknown {mode : Word} (h0 : mode ≠ 0) (h1 : mode ≠ 1) (h2 : mode ≠ 2) :
    freezeByMode mode = unknownMode := by
  funext s
  simp only [freezeByMode, h0, h1, h2, ne_eq, not_false_eq_true, and_self, if_true, if_false]

/-- Settles O50: the three modes, and the size test of the two others. -/
theorem freezeInfoOtherShort : Obligations.FreezeInfoOtherShort := by
  intro s halive
  refine ⟨fun i hi => ?_, fun mode => ?_, fun mode h0 h1 h2 => ?_, fun hshort i hi => ?_⟩
  · simp only [List.mem_cons, List.not_mem_nil, or_false] at hi
    have hinfo : exec i s = freezeInfoMode s := by
      obtain rfl | rfl := hi <;> exact exec_of_alive (k := freezeInfoMode) halive rfl
    rw [hinfo, freezeInfoMode_eq]
  · exact exec_of_alive (k := unknownMode) halive rfl
  · rw [exec_of_alive (k := freezeByMode mode) halive rfl, freezeByMode_unknown h0 h1 h2]
    rfl
  · obtain ⟨work, hexec⟩ := exec_getSet_versioned s i hi
    rw [hexec, whenAlive_of_alive halive, versionedMode,
      needImage_of_lt (by rwa [imageBytes_eq])]

end Sys2Proof.Machine

/-! PROOFS. Save state (43_freeze_lifecycle.md R211 to R218): the bytes a GET leaves, the
transactions a SET replays, and what comes back. -/

namespace Sys2Proof.Machine

/-! ## An image of version 1 -/

theorem vramBytes_eq_kb (p : Params) : p.vramBytes = p.vramKb * 2048 := by
  unfold Params.vramBytes
  omega

section Versioned

variable {s : State}

/-- R214: an image of version 1 that is large enough gets the mode's work. -/
theorem versionedMode_of_version (hsize : 1032 + s.cfg.vramKb * 2048 ≤ s.img.size)
    (hversion : readWord s.img.bytes 0 = 1) (work : State → State) :
    versionedMode work s = .next { work s with answer := .code 1 } := by
  rw [versionedMode, needImage_of_le ((imageBytes_eq s.cfg).trans_le hsize)]
  exact if_pos hversion

variable (halive : s.life ≠ .off) (hsize : 1032 + s.cfg.vramKb * 2048 ≤ s.img.size)
  (hversion : readWord s.img.bytes 0 = 1)

include halive hsize hversion

theorem exec_get : exec .frzGet s = .next { freezeGet s with answer := .code 1 }
    ∧ exec (.frz 1) s = .next { freezeGet s with answer := .code 1 } := by
  have hget := versionedMode_of_version hsize hversion freezeGet
  exact ⟨(exec_of_alive (k := versionedMode freezeGet) halive rfl).trans hget,
    (exec_of_alive (k := freezeByMode 1) halive rfl).trans hget⟩

theorem exec_set : exec .frzSet s = .next { freezeSet s with answer := .code 1 }
    ∧ exec (.frz 0) s = .next { freezeSet s with answer := .code 1 } := by
  have hset := versionedMode_of_version hsize hversion freezeSet
  exact ⟨(exec_of_alive (k := versionedMode freezeSet) halive rfl).trans hset,
    (exec_of_alive (k := freezeByMode 0) halive rfl).trans hset⟩

end Versioned

/-! ## The bytes of words -/

section Bytes

theorem wordBytes_getD (w : Word) {i : Nat} (hi : i < 4) :
    (wordBytes w).getD i 0 = w.extractLsb' (8 * i) 8 := by
  interval_cases i <;> rfl

/-- Byte `i` of a row of words is byte `i % 4` of its word `i / 4`. -/
theorem flatMap_wordBytes_getD (ws : List Word) (i : Nat) :
    (ws.flatMap wordBytes).getD i 0 = (ws.getD (i / 4) 0).extractLsb' (8 * (i % 4)) 8 := by
  induction ws generalizing i with
  | nil => simp
  | cons w ws ih =>
    rw [List.flatMap_cons]
    by_cases hi : i < 4
    · rw [List.getD_append _ _ _ _ hi, wordBytes_getD w hi, Nat.div_eq_of_lt hi,
        Nat.mod_eq_of_lt hi, List.getD_cons_zero]
    · have hdiv : i / 4 = (i - 4) / 4 + 1 := by omega
      have hmod : i % 4 = (i - 4) % 4 := by omega
      rw [List.getD_append_right _ _ _ _ (Nat.not_lt.1 hi), wordBytes_length, ih, hdiv, hmod,
        List.getD_cons_succ]

/-- A word is its four bytes. -/
theorem word_of_bytes (w : Word) :
    w.extractLsb' 24 8 ++ w.extractLsb' 16 8 ++ w.extractLsb' 8 8 ++ w.extractLsb' 0 8 = w := by
  rw [BitVec.eq_of_getLsbD_eq_iff]
  intro k hk
  simp only [BitVec.getLsbD_append, BitVec.getLsbD_extractLsb']
  by_cases h8 : k < 8
  · simp [h8]
  · by_cases h16 : k < 16
    · have hk8 : k - 8 < 8 := by omega
      have hsum : 8 + (k - 8) = k := by omega
      simp [h8, hk8, hsum]
    · by_cases h24 : k < 24
      · have hk8 : ¬ k - 8 < 8 := by omega
        have hk16 : k - 8 - 8 < 8 := by omega
        have hsum : 16 + (k - 8 - 8) = k := by omega
        simp [h8, hk8, hk16, hsum]
      · have hk8 : ¬ k - 8 < 8 := by omega
        have hk16 : ¬ k - 8 - 8 < 8 := by omega
        have hk24 : k - 8 - 8 - 8 < 8 := by omega
        have hsum : 24 + (k - 8 - 8 - 8) = k := by omega
        simp [h8, hk8, hk16, hk24, hsum]

/-- A word whose bytes lie at `a` is read there. -/
theorem readWord_of_bytes {m : Memory} {a : Nat} {w : Word}
    (h : ∀ j < 4, readByte m (a + j) = w.extractLsb' (8 * j) 8) : readWord m a = w := by
  have h0 := h 0 (by decide)
  have h1 := h 1 (by decide)
  have h2 := h 2 (by decide)
  have h3 := h 3 (by decide)
  rw [Nat.add_zero] at h0
  rw [readWord, h0, h1, h2, h3]
  exact word_of_bytes w

end Bytes

/-! ## GET -/

section Get

variable (s : State)

theorem headerFields_status {a : Nat} (ha : 4 ≤ a) (ha' : a < 8) :
    readByte (headerFields s) a = s.stat.extractLsb' (8 * (a - 4)) 8 := by
  have hi : a - 4 < 4 := by omega
  rw [headerFields, readByte_bytesAt, if_pos ha, List.getD_append _ _ _ _ hi, wordBytes_getD _ hi]
  rfl

theorem headerFields_control {a : Nat} (ha : 8 ≤ a) :
    readByte (headerFields s) a
      = (s.ctl.toList.getD ((a - 8) / 4) 0).extractLsb' (8 * ((a - 8) % 4)) 8 := by
  have hi : 4 ≤ a - 4 := by omega
  have hsub : a - 4 - 4 = a - 8 := by omega
  rw [headerFields, readByte_bytesAt, if_pos (by omega), List.getD_append_right _ _ _ _ hi,
    wordBytes_length, flatMap_wordBytes_getD, hsub]

/-- R213, byte by byte. -/
theorem freezeGet_bytes (a : Nat) : readByte (freezeGet s).img.bytes a =
    if 4 ≤ a ∧ a < 8 then s.stat.extractLsb' (8 * (a - 4)) 8
    else if 8 ≤ a ∧ a < 1032 then
      (s.ctl.toList.getD ((a - 8) / 4) 0).extractLsb' (8 * ((a - 8) % 4)) 8
    else if 1032 ≤ a ∧ a < 1032 + s.cfg.vramKb * 2048 then readByte s.vram (a - 1032)
    else readByte s.img.bytes a := by
  have hoffset : vramOffset = 1032 := rfl
  rw [freezeGet_readByte, hoffset, vramBytes_eq_kb]
  by_cases hstat : 4 ≤ a ∧ a < 8
  · rw [if_neg (by omega), if_pos (by omega), if_pos hstat, headerFields_status s hstat.1 hstat.2]
  · by_cases hctl : 8 ≤ a ∧ a < 1032
    · rw [if_neg (by omega), if_pos (by omega), if_neg hstat, if_pos hctl,
        headerFields_control s hctl.1]
    · rw [if_neg hstat, if_neg hctl]
      split
      · rfl
      · rw [if_neg (by omega)]

end Get

/-- Settles O47: a GET of version 1 leaves the bytes of the three fields. -/
theorem freezeGetWritesImage : Obligations.FreezeGetWritesImage := by
  intro s halive hsize hversion
  obtain ⟨hget, hmode⟩ := exec_get halive hsize hversion
  exact ⟨_, hget, hmode, rfl, freezeGet_bytes s⟩

/-! ## The replay as transactions -/

section Replay

/-- The table after a store. -/
theorem ctlEntry_writeStatus (w : Word) (s : State) (k : BitVec 8) :
    ctlEntry (writeStatus w s) k = if k = opcodeOf w then w else ctlEntry s k := by
  have htable : (writeStatus w s).ctl = (storeCtl w s).ctl :=
    Eq.trans (congrArg State.ctl (writeStatus_frame w s)) rfl
  simp only [ctlEntry, htable, storeCtl_ctl, Vector.getElem_set]
  by_cases hk : k = opcodeOf w
  · rw [if_pos (congrArg BitVec.toNat hk).symm, if_pos hk]
  · rw [if_neg fun heq => hk (BitVec.eq_of_toNat_eq heq.symm), if_neg hk]

theorem writeStatus_life (w : Word) (s : State) : (writeStatus w s).life = s.life :=
  Eq.trans (congrArg State.life (writeStatus_frame w s)) rfl

theorem writeStatus_cfg (w : Word) (s : State) : (writeStatus w s).cfg = s.cfg :=
  Eq.trans (congrArg State.cfg (writeStatus_frame w s)) rfl

/-- R215: the replay is a run of status-port transactions. -/
theorem runReplay_eq (ks : List (Fin 256)) {s : State} (halive : s.life ≠ .off) :
    runReplay ks s = .next (replayCommands (ks.map fun k => BitVec.ofFin k) s) := by
  induction ks generalizing s with
  | nil => rfl
  | cons k ks ih =>
    rw [runReplay, exec_decodeStatus halive, andThen_next,
      ih ((writeStatus_life _ s).trans_ne halive)]
    rfl

/-- A slot whose word is its own or 0 (a slot never written). -/
def OwnWord (k : BitVec 8) (w : Word) : Prop := w = 0 ∨ opcodeOf w = k

/-- A word that its own slot replays writes that slot, or slot 0. -/
theorem OwnWord.opcode {k : BitVec 8} {w : Word} (h : OwnWord k w) :
    opcodeOf w = k ∨ opcodeOf w = 0 := by
  obtain rfl | hk := h
  · exact .inr rfl
  · exact .inl hk

/-- When every slot to come holds its own word or 0, each is replayed with the word it held at the
start: a word stored on the way goes to a slot already replayed, or to slot 0. -/
theorem runInstrs_replay {p : Params} {word : BitVec 8 → Word} (ks : List (BitVec 8)) {s : State}
    (halive : s.life ≠ .off) (hcfg : s.cfg = p) (hword : ∀ k ∈ ks, ctlEntry s k = word k)
    (hown : ∀ k ∈ ks, OwnWord k (word k)) (hdistinct : ks.Nodup) (hzero : 0 ∉ ks.tail) :
    runInstrs (ks.map fun k => decodeStatus p (word k)) s = .next (replayCommands ks s) := by
  induction ks generalizing s with
  | nil => rfl
  | cons k ks ih =>
    obtain ⟨hk, hword⟩ := List.forall_mem_cons.1 hword
    obtain ⟨hownk, hown⟩ := List.forall_mem_cons.1 hown
    obtain ⟨hnotin, hdistinct⟩ := List.nodup_cons.1 hdistinct
    have hkept (j : BitVec 8) (hj : j ∈ ks) : ctlEntry (writeStatus (word k) s) j = word j := by
      have hne : j ≠ opcodeOf (word k) := by
        rintro rfl
        obtain heq | heq := hownk.opcode
        · exact hnotin (heq ▸ hj)
        · exact hzero (heq ▸ hj)
      rw [ctlEntry_writeStatus, if_neg hne, hword j hj]
    rw [List.map_cons, runInstrs, ← hcfg, exec_decodeStatus halive, andThen_next, hcfg,
      ih ((writeStatus_life _ s).trans_ne halive) ((writeStatus_cfg _ s).trans hcfg) hkept hown
        hdistinct (fun h => hzero (List.mem_of_mem_tail h)), replayCommands, hk]

/-- A replay of words that are all in their own slots leaves the table. -/
theorem replayCommands_ctl (ks : List (BitVec 8)) {s : State}
    (hown : ∀ k ∈ ks, opcodeOf (ctlEntry s k) = k) : (replayCommands ks s).ctl = s.ctl := by
  induction ks generalizing s with
  | nil => rfl
  | cons k ks ih =>
    obtain ⟨hk, hown⟩ := List.forall_mem_cons.1 hown
    have hentry (j : BitVec 8) : ctlEntry (writeStatus (ctlEntry s k) s) j = ctlEntry s j := by
      rw [ctlEntry_writeStatus, hk]
      split
      case isTrue hj => rw [hj]
      case isFalse => rfl
    have htable : (writeStatus (ctlEntry s k) s).ctl = s.ctl := by
      refine Vector.ext fun i hi => ?_
      exact hentry (BitVec.ofFin ⟨i, hi⟩)
    rw [replayCommands, ih fun j hj => (congrArg opcodeOf (hentry j)).trans (hown j hj), htable]

end Replay

/-! ## SET -/

section Set

variable {s : State}

/-- The VRAM that a SET restores. -/
theorem restored_vram (s : State) (a : Nat) :
    readByte (takeWindow s.img.bytes vramOffset s.cfg.vramBytes) a
      = if a < s.cfg.vramKb * 2048 then readByte s.img.bytes (1032 + a) else 0 := by
  rw [readByte_takeWindow, vramBytes_eq_kb, Nat.add_comm a]
  rfl

/-- The word an image holds for a slot (30_encoding.md R119). -/
def imageSlot (s : State) (k : BitVec 8) : Word := readWord s.img.bytes (8 + 4 * k.toNat)

theorem ctlEntry_restoreImage (s : State) (k : BitVec 8) :
    ctlEntry (restoreImage s) k = imageSlot s k := by
  simp only [ctlEntry, restoreImage, imageCtl, imageSlot, Vector.getElem_ofFn]

theorem opcodeOf_toNat (w : Word) : (opcodeOf w).toNat = (w >>> 24).toNat := by
  have hlt : w.toNat >>> 24 < 2 ^ 8 := by
    rw [Nat.shiftRight_eq_div_pow]
    have := w.isLt
    omega
  rw [opcodeOf, BitVec.extractLsb'_toNat, BitVec.toNat_ushiftRight, Nat.mod_eq_of_lt hlt]

/-- The nine slots of an image hold words of their own or 0. -/
theorem imageSlot_own
    (hown : ∀ k < 9, readWord s.img.bytes (8 + 4 * k) = 0
      ∨ (readWord s.img.bytes (8 + 4 * k) >>> 24).toNat = k) {k : BitVec 8} (hk : k.toNat < 9) :
    OwnWord k (imageSlot s k) :=
  (hown k.toNat hk).imp_right fun hop => BitVec.eq_of_toNat_eq ((opcodeOf_toNat _).trans hop)

/-- The slots that a SET replays (R215). -/
theorem mem_replayOrder : ∀ k ∈ Config.replayOrder, k.toNat < 9 := by decide

end Set

/-- Settles O49: the replay is nine transactions, of the image's words when each slot holds its own.
-/
theorem freezeSetReplays : Obligations.FreezeSetReplays := by
  intro s halive hsize hversion
  obtain ⟨hset, hmode⟩ := exec_set halive hsize hversion
  refine ⟨takeWindow s.img.bytes vramOffset s.cfg.vramBytes, freezeSet s, restored_vram s, ?_⟩
  intro restored
  have hrestored : restored = restoreImage s := rfl
  refine ⟨?_, hset, hmode, fun hown => ?_⟩
  · rw [hrestored]
    exact runReplay_eq (s := restoreImage s) _ halive
  · have hrun := runInstrs_replay (p := s.cfg) (word := imageSlot s) Config.replayOrder
      (s := restoreImage s) halive rfl (fun k _ => ctlEntry_restoreImage s k)
      (fun k hk => imageSlot_own hown (mem_replayOrder k hk)) (by decide) (by decide)
    rw [hrestored]
    exact hrun

/-! ## What the replay leaves -/

/-- Bits 15:0, `OddLines` and `ReadyForVram`, which no command but a Reset writes. -/
def restoredBits (l : StatLayout) : Word := 0x0000FFFF ||| bitAt l.oddLines ||| bitAt l.readyForVram

section Bits

variable {l : StatLayout} (hl : layoutOk l = true)

theorem and_eq_iff {x y m : Word} :
    x &&& m = y &&& m ↔ ∀ k < 32, m.getLsbD k = true → x.getLsbD k = y.getLsbD k := by
  rw [BitVec.eq_of_getLsbD_eq_iff]
  refine forall₂_congr fun k _ => ?_
  simp only [BitVec.getLsbD_and]
  cases m.getLsbD k <;> simp

include hl

/-- A field of a command lies apart from these bits. -/
theorem fieldMask_restoredBits {f : StatField}
    (hf : f ∈ commandFields ∧ f ≠ .oddLines ∧ f ≠ .readyForVram) {k : Nat} (hk : k < 32)
    (hbit : (restoredBits l).getLsbD k = true) : (fieldMask l f).getLsbD k = false := by
  obtain ⟨hf, hodd, hready⟩ := hf
  have hhigh := layoutOk_command hl hf
  have hapartOdd := layoutOk_disjoint hl hodd
  have hapartReady := layoutOk_disjoint hl hready
  simp only [restoredBits, BitVec.getLsbD_or, lowBits_getLsbD hk, bitAt_getLsbD _ hk,
    Bool.or_eq_true, decide_eq_true_eq] at hbit
  rw [fieldMask_getLsbD l f hk, decide_eq_false_iff_not]
  have hloOdd : fieldLo l .oddLines = l.oddLines := rfl
  have hloReady : fieldLo l .readyForVram = l.readyForVram := rfl
  have hwOdd : fieldWidth .oddLines = 1 := rfl
  have hwReady : fieldWidth .readyForVram = 1 := rfl
  omega

/-- Only a Reset writes one of these bits. -/
theorem commandMask_restoredBits {i : Instr} (hi : ∀ param, i ≠ .wsReset param) {k : Nat}
    (hk : k < 32) (hbit : (restoredBits l).getLsbD k = true) :
    (commandMask l i).getLsbD k = false := by
  cases i with
  | wsReset param => exact absurd rfl (hi param)
  | wsDisplay _ _ =>
    exact fieldMask_restoredBits hl (f := .displayDisabled) (by decide) hk hbit
  | wsMode _ _ =>
    exact fieldMask_restoredBits hl (f := .dmaDirection) (by decide) hk hbit
  | wsInfo _ _ _ _ _ _ _ _ =>
    have hfield {f : StatField} (hf : f ∈ commandFields ∧ f ≠ .oddLines ∧ f ≠ .readyForVram) :=
      fieldMask_restoredBits hl hf hk hbit
    simp only [commandMask, infoMask, BitVec.getLsbD_or, Bool.or_eq_false_iff]
    exact ⟨⟨⟨⟨hfield (by decide), hfield (by decide)⟩, hfield (by decide)⟩, hfield (by decide)⟩,
      hfield (by decide)⟩
  | _ => exact BitVec.getLsbD_zero

/-- A flag that is 0 in the init pattern. -/
theorem statInit_and_bitAt {f : StatField} (hone : fieldOnes f = 1) (hreset : fieldReset f = 0) :
    Config.statInit &&& bitAt (fieldLo l f) = 0 := by
  have hoff : Config.statInit.getLsbD (fieldLo l f) = false := by
    rw [Bool.eq_false_iff]
    intro hset
    have hvalue := (getField_eq_one_iff hone).2 hset
    rw [layoutOk_reset hl f, hreset] at hvalue
    exact absurd hvalue (by decide)
  rw [BitVec.eq_of_getLsbD_eq_iff]
  intro k hk
  rw [BitVec.getLsbD_and, bitAt_getLsbD _ hk]
  refine Eq.trans ?_ BitVec.getLsbD_zero.symm
  by_cases hfield : k = fieldLo l f
  · rw [hfield, hoff, Bool.false_and]
  · rw [decide_eq_false hfield, Bool.and_false]

/-- R31: of these bits the init pattern has bit 13 alone. -/
theorem statInit_restoredBits : Config.statInit &&& restoredBits l = 0x00002000 := by
  have hodd : Config.statInit &&& bitAt l.oddLines = 0 :=
    statInit_and_bitAt hl (f := .oddLines) rfl rfl
  have hready : Config.statInit &&& bitAt l.readyForVram = 0 :=
    statInit_and_bitAt hl (f := .readyForVram) rfl rfl
  rw [restoredBits, BitVec.and_or_distrib_left, BitVec.and_or_distrib_left, hodd, hready]
  decide

end Bits

/-- What holds from the Reset of a replay on: transfers over, raw-info table clear, latch kept, and
the status bits that only a Reset writes at their init pattern. -/
structure ReplayedFrom (s u : State) : Prop where
  cfg : u.cfg = s.cfg
  cin : u.cin = Cursor.idle
  cout : u.cout = Cursor.idle
  info : u.info = RawInfo.zero
  gdata : u.gdata = s.gdata
  stat : u.stat &&& restoredBits s.cfg.statLayout = 0x00002000

/-- The nine replayed slots hold words of their own or 0. -/
def TableOwn (u : State) : Prop := ∀ k : BitVec 8, k.toNat < 9 → OwnWord k (ctlEntry u k)

section Replayed

variable {s u : State}

theorem writeStatus_keeps_tableOwn (k : BitVec 8) (h : TableOwn u) :
    TableOwn (writeStatus (ctlEntry u k) u) := by
  intro j hj
  rw [ctlEntry_writeStatus]
  split
  case isTrue heq => exact .inr heq.symm
  case isFalse => exact h j hj

/-- The word of a slot is no GpuRequest when GpuRequest has an opcode above 8. -/
theorem OwnWord.ne_gpuRequest {k op : BitVec 8} {w : Word} (h : OwnWord k w) (hk : k.toNat < 9)
    (hop : 8 < op.toNat) : opcodeOf w ≠ op := by
  rintro rfl
  obtain heq | heq := h.opcode
  · rw [heq] at hop
    omega
  · rw [heq] at hop
    exact absurd hop (by decide)

theorem writeStatus_reset {w : Word} (hw : opcodeOf w = u.cfg.ops.reset) :
    ∃ v, v = storeCtl w u ∧ writeStatus w u = resetEffect v := by
  refine ⟨storeCtl w u, rfl, ?_⟩
  rw [writeStatus, decodeStatus_of_reset hw]
  rfl

/-- A Reset puts everything in order, whatever was before. -/
theorem replayedFrom_of_reset (hl : layoutOk s.cfg.statLayout = true) {w : Word}
    (hw : opcodeOf w = u.cfg.ops.reset) (hcfg : u.cfg = s.cfg) (hgdata : u.gdata = s.gdata) :
    ReplayedFrom s (writeStatus w u) := by
  obtain ⟨v, hv, hreset⟩ := writeStatus_reset hw
  rw [hreset, hv]
  exact ⟨hcfg, rfl, rfl, rfl, hgdata, statInit_restoredBits hl⟩

/-- Any other command of the replay leaves it in order. -/
theorem ReplayedFrom.writeStatus (h : ReplayedFrom s u) (hl : layoutOk s.cfg.statLayout = true)
    {w : Word} (hrequest : opcodeOf w ≠ s.cfg.ops.gpuRequest) :
    ReplayedFrom s (writeStatus w u) := by
  by_cases hreset : opcodeOf w = u.cfg.ops.reset
  · exact replayedFrom_of_reset hl hreset h.cfg h.gdata
  · have hnot := decodeStatus_ne_reset hreset
    obtain ⟨hcin, hcout, hinfo⟩ := commandEffect_keeps_cursors hnot (storeCtl w u)
    refine ⟨(writeStatus_cfg w u).trans h.cfg, hcin.trans h.cin, hcout.trans h.cout,
      hinfo.trans h.info, ?_, Eq.trans (and_eq_iff.2 fun k hk hbit => ?_) h.stat⟩
    · exact (decodeStatus_keeps_gdata (h.cfg ▸ hrequest) _).trans h.gdata
    · rw [Machine.writeStatus, commandEffect_stat]
      refine commandStat_outside _ _ _ hk ?_
      have hlayout : (storeCtl w u).cfg.statLayout = s.cfg.statLayout := by
        rw [storeCtl_cfg, h.cfg]
      rw [hlayout]
      exact commandMask_restoredBits hl hnot hk hbit

theorem replayCommands_replayed (hl : layoutOk s.cfg.statLayout = true)
    (hrequest : 8 < s.cfg.ops.gpuRequest.toNat) (ks : List (BitVec 8)) {u : State}
    (hks : ∀ k ∈ ks, k.toNat < 9) (htable : TableOwn u) (h : ReplayedFrom s u) :
    ReplayedFrom s (replayCommands ks u) := by
  induction ks generalizing u with
  | nil => exact h
  | cons k ks ih =>
    obtain ⟨hk, hks⟩ := List.forall_mem_cons.1 hks
    exact ih hks (writeStatus_keeps_tableOwn k htable)
      (h.writeStatus hl ((htable k hk).ne_gpuRequest hk hrequest))

end Replayed

/-- Settles O48: the first command of the replay is a Reset, and the others keep what it leaves. -/
theorem freezeSetCompletes : Obligations.FreezeSetCompletes := by
  intro s halive hsize hversion
  obtain ⟨hset, hmode⟩ := exec_set halive hsize hversion
  have hvram : (freezeSet s).vram = takeWindow s.img.bytes vramOffset s.cfg.vramBytes := by
    rw [freezeSet_frame]
  refine ⟨_, hset, hmode, ?_, fun a => ?_, fun hparams hreset hrequest hown => ?_⟩
  · have hframe := freezeSet_frame s
    rw [← hvram] at hframe
    exact congrArg (fun t : State => { t with answer := .code 1 }) hframe
  · exact (congrArg (fun m => readByte m a) hvram).trans (restored_vram s a)
  · intro l owned
    obtain ⟨-, -, -, -, -, -, -, -, -, -, -, hl⟩ := (paramsOk_iff s.cfg).1 hparams
    have htable : TableOwn (restoreImage s) := fun k hk => by
      rw [ctlEntry_restoreImage]
      exact imageSlot_own hown hk
    have hfirst : opcodeOf (ctlEntry (restoreImage s) 0) = s.cfg.ops.reset := by
      obtain h0 | h0 := (htable 0 (by decide)).opcode <;> rw [h0, hreset]
    have hstart : ReplayedFrom s (writeStatus (ctlEntry (restoreImage s) 0) (restoreImage s)) :=
      replayedFrom_of_reset hl hfirst rfl rfl
    have hrest := replayCommands_replayed hl hrequest [1, 2, 3, 8, 6, 7, 5, 4] (by decide)
      (writeStatus_keeps_tableOwn 0 htable) hstart
    exact ⟨hrest.cin, hrest.cout, hrest.info, hrest.gdata, hrest.stat⟩

/-! ## GET, then SET -/

section Saved

variable {s : State}

theorem freezeGet_version : readWord (freezeGet s).img.bytes 0 = readWord s.img.bytes 0 := by
  have hbyte {j : Nat} (hj : j < 4) :
      readByte (freezeGet s).img.bytes j = readByte s.img.bytes j := by
    rw [freezeGet_bytes, if_neg (by omega), if_neg (by omega), if_neg (by omega)]
  simp only [readWord, Nat.zero_add, hbyte (show 3 < 4 by decide), hbyte (show 2 < 4 by decide),
    hbyte (show 1 < 4 by decide), hbyte (show 0 < 4 by decide)]

/-- The table that a GET saves. -/
theorem imageCtl_freezeGet : imageCtl (freezeGet s).img = s.ctl := by
  refine Vector.ext fun i hi => ?_
  rw [imageCtl, Vector.getElem_ofFn]
  refine readWord_of_bytes fun j hj => ?_
  have hdiv : (8 + 4 * i + j - 8) / 4 = i := by omega
  have hmod : (8 + 4 * i + j - 8) % 4 = j := by omega
  have hget : s.ctl.toList.getD i 0 = s.ctl[i] := by simp [hi]
  rw [freezeGet_bytes, if_neg (by omega), if_pos (by omega), hdiv, hmod, hget]

/-- The VRAM that a GET saves. -/
theorem freezeGet_vram (hbelow : memBelow (s.cfg.vramKb * 2048) s.vram) (a : Nat) :
    (if a < s.cfg.vramKb * 2048 then readByte (freezeGet s).img.bytes (1032 + a) else 0)
      = readByte s.vram a := by
  by_cases ha : a < s.cfg.vramKb * 2048
  · rw [if_pos ha, freezeGet_bytes, if_neg (by omega), if_neg (by omega), if_pos (by omega),
      Nat.add_sub_cancel_left]
  · rw [if_neg ha]
    refine (readByte_of_not_listed fun c hc => ?_).symm
    have := hbelow c hc
    omega

end Saved

/-- Settles O51: the SET reads the bytes that the GET left. -/
theorem saveThenRestore : Obligations.SaveThenRestore := by
  intro s halive hsize hversion hbelow
  refine ⟨_, (exec_get halive hsize hversion).1, fun s' halive' hcfg himg => ?_⟩
  have himg' : s'.img = (freezeGet s).img := himg
  have hsize' : 1032 + s'.cfg.vramKb * 2048 ≤ s'.img.size := by
    rw [himg', hcfg]
    exact hsize
  have hversion' : readWord s'.img.bytes 0 = 1 := by
    rw [himg', freezeGet_version, hversion]
  have hvram : (freezeSet s').vram = takeWindow s'.img.bytes vramOffset s'.cfg.vramBytes := by
    rw [freezeSet_frame]
  have htable : (restoreImage s').ctl = s.ctl := by
    rw [restoreImage, himg']
    exact imageCtl_freezeGet
  refine ⟨_, (exec_set halive' hsize' hversion').1, fun a => ?_, fun hown => ?_⟩
  · calc readByte (freezeSet s').vram a
        = if a < s.cfg.vramKb * 2048 then readByte (freezeGet s).img.bytes (1032 + a) else 0 := by
          rw [hvram, restored_vram, hcfg, himg']
      _ = readByte s.vram a := freezeGet_vram hbelow a
  · have hkept := replayCommands_ctl Config.replayOrder (s := restoreImage s') fun k hk => by
      have hlt := mem_replayOrder k hk
      have hentry : ctlEntry (restoreImage s') k = s.ctl[k.toNat] := by
        simp only [ctlEntry, htable]
      rw [hentry]
      exact BitVec.eq_of_toNat_eq ((opcodeOf_toNat _).trans (hown ⟨k.toNat, hlt⟩))
    exact hkept.trans htable

end Sys2Proof.Machine

/-! PROOFS. The frame timer and `VSYNC` (44_frame_timer.md R243, R250 to R263): each half of the
check with the readings it takes, what the whole writes, and the bounds of its arithmetic. -/

namespace Sys2Proof.Machine

/-! ## The parts of a `VSYNC` -/

section Parts

theorem exec_vsync {s : State} (hopened : s.life = .opened) :
    exec .vsync s = .next (presentOrSkip (checkFrame (oddEvenAtVsync s))) :=
  if_pos hopened

/-- R262: the status word after the toggle. -/
def vsyncStat (s : State) : Word :=
  if s.cfg.fixOddEvenBit then s.stat else s.stat ^^^ bitAt s.cfg.statLayout.oddLines

theorem oddEvenAtVsync_eq (s : State) : oddEvenAtVsync s = { s with stat := vsyncStat s } := by
  unfold oddEvenAtVsync vsyncStat
  split
  · rfl
  · rw [flipField_eq (f := .oddLines) rfl]
    rfl

/-- R263: a ready frame is presented, or dropped while frames are to be skipped. -/
theorem presentOrSkip_eq (s : State) : presentOrSkip s = { s with
    vsyncReady := false
    events := s.events ++ if s.vsyncReady = true
        ∧ ¬ (s.cfg.frameSkipEnabled = true ∧ 0 < s.ft.skipLeft) then [.render] else []
    ft := { s.ft with skipLeft :=
      if s.vsyncReady = false ∨ s.cfg.frameSkipEnabled = false then s.ft.skipLeft
      else if 0 < s.ft.skipLeft then s.ft.skipLeft - 1
      else s.ft.framesToSkip } } := by
  unfold presentOrSkip
  cases hready : s.vsyncReady with
  | false =>
    simp only [Bool.false_eq_true, false_and, true_or, if_true, if_false, List.append_nil]
    rw [← hready]
  | true =>
    cases hskip : s.cfg.frameSkipEnabled with
    | false => simp [emit, hskip]
    | true =>
      by_cases hleft : 0 < s.ft.skipLeft
      · simp [hleft]
      · simp [emit, hskip, hleft]

/-- Without frame skipping a ready frame is always presented. -/
theorem presentOrSkip_of_no_skip {s : State} (hskip : s.cfg.frameSkipEnabled = false) :
    presentOrSkip s = { s with
      vsyncReady := false
      events := s.events ++ if s.vsyncReady then [.render] else [] } := by
  rw [presentOrSkip_eq]
  simp [hskip]

/-- R258: only a check that skips or displays measures. -/
theorem checkFrame_of_measures {s : State}
    (h : s.cfg.frameSkipEnabled = true ∨ s.cfg.fpsDisplayEnabled = true) :
    checkFrame s = measureFps (checkLimit s) := by
  obtain ⟨-, hframe⟩ := checkLimit_spec s
  have hcfg : (checkLimit s).cfg = s.cfg := by rw [hframe]
  simp [checkFrame, hcfg, h]

theorem checkFrame_of_not {s : State} (hskip : s.cfg.frameSkipEnabled = false)
    (hfps : s.cfg.fpsDisplayEnabled = false) : checkFrame s = checkLimit s := by
  obtain ⟨-, hframe⟩ := checkLimit_spec s
  have hcfg : (checkLimit s).cfg = s.cfg := by rw [hframe]
  simp [checkFrame, hcfg, hskip, hfps]

end Parts

/-! ## What a `VSYNC` writes -/

section Frame

/-- R258: the clock does not run back, and of the timer the selected rate and its period stay. -/
theorem checkFrame_spec (s : State) :
    s.clock.now ≤ (checkFrame s).clock.now
      ∧ checkFrame s = { s with
          ft := { (checkFrame s).ft with
            targetFps := s.ft.targetFps, targetDuration := s.ft.targetDuration }
          clock := (checkFrame s).clock
          freeCount := (checkFrame s).freeCount
          events := (checkFrame s).events } := by
  obtain ⟨hlimit, hlimitFrame⟩ := checkLimit_spec s
  obtain ⟨hmeasure, -, -, -, -, -, hmeasureFrame⟩ := measureFps_spec (checkLimit s)
  unfold checkFrame
  simp only
  split
  · refine ⟨hlimit.trans hmeasure, ?_⟩
    rw [hmeasureFrame, hlimitFrame]
  · refine ⟨hlimit, ?_⟩
    rw [hlimitFrame]

end Frame

/-- Settles O55: the three parts one after another, in an open block. -/
theorem vsyncFrame : Obligations.VsyncFrame := by
  intro s hopened
  obtain ⟨hclock, hcheck⟩ := checkFrame_spec { s with stat := vsyncStat s }
  have hpresent := presentOrSkip_frame (checkFrame { s with stat := vsyncStat s })
  rw [exec_vsync hopened, oddEvenAtVsync_eq]
  refine ⟨_, rfl, ?_, ?_⟩
  · rw [hpresent]
    exact hclock
  · rw [hpresent, hcheck]
    rfl

/-- Settles O56: neither half of the check runs. -/
theorem vsyncAllOff : Obligations.VsyncAllOff := by
  intro s hopened hlimit hskip hfps
  let u : State := { s with stat := vsyncStat s }
  have hcheck : checkFrame u = u := by
    rw [checkFrame_of_not (s := u) hskip hfps]
    simp [checkLimit, u, hlimit, hskip]
  rw [exec_vsync hopened, oddEvenAtVsync_eq]
  exact congrArg Host.Outcome.next
    ((congrArg presentOrSkip hcheck).trans (presentOrSkip_of_no_skip (s := u) hskip))

/-! ## The limiting half -/

section Limit

/-- R251: the hold takes readings until the first at or past the threshold. -/
theorem readingsUntil_append {threshold now e : Nat} {es fs : List Nat}
    (hbelow : now + es.sum < threshold) (hreach : threshold ≤ now + es.sum + e) :
    readingsUntil threshold now (es ++ e :: fs) = some (now + es.sum + e, fs) := by
  induction es generalizing now with
  | nil => exact if_pos hreach
  | cons x es ih =>
    rw [List.sum_cons] at hbelow hreach ⊢
    have hnot : ¬ threshold ≤ now + x := by omega
    rw [List.cons_append, readingsUntil, if_neg hnot, ih (by omega) (by omega), Nat.add_assoc now]

theorem holdClock_of_reading {threshold now : Nat} {ds : List Nat} {s : State}
    (h : readingsUntil threshold s.clock.now s.clock.ticks = some (now, ds)) :
    holdClock threshold s = { s with clock := ⟨now, ds⟩ } := by
  simp only [holdClock, h]

/-- R252: the sleep that is asked for. -/
def ecoSleeps (p : Params) (rem : Nat) : List Event :=
  if p.ecoMode = true ∧ msTicks p 4 < rem ∧ rem - msTicks p 4 < msTicks p 100 then
    [.sleep (rem - msTicks p 4)]
  else []

theorem ecoSleep_eq (rem : Nat) (s : State) :
    ecoSleep rem s = { s with events := s.events ++ ecoSleeps s.cfg rem } := by
  unfold ecoSleep ecoSleeps
  simp only [Bool.and_eq_true, decide_eq_true_eq, and_assoc]
  split
  · rfl
  · rw [List.append_nil]

/-- R250: behind schedule or on time. -/
theorem limitFrame_late {s : State} {d : Nat} {ds : List Nat} (hticks : s.clock.ticks = d :: ds)
    (hlate : s.ft.nextUpdate ≤ s.clock.now + d) :
    limitFrame s = { s with
      clock := ⟨s.clock.now + d, ds⟩
      ft := { s.ft with
        nextUpdate := max (s.ft.nextUpdate + s.ft.targetDuration) (s.clock.now + d) } } := by
  simp only [limitFrame, readClock_of_supplied hticks, hlate, if_true]
  rfl

/-- R251, R252: ahead of schedule. -/
theorem limitFrame_early {s : State} {d e : Nat} {es fs : List Nat}
    (hticks : s.clock.ticks = d :: (es ++ e :: fs))
    (hbelow : s.clock.now + d + es.sum < s.ft.nextUpdate)
    (hreach : s.ft.nextUpdate ≤ s.clock.now + d + es.sum + e) :
    limitFrame s = { s with
      clock := ⟨s.clock.now + d + es.sum + e, fs⟩
      ft := { s.ft with nextUpdate := s.ft.nextUpdate + s.ft.targetDuration }
      events := s.events ++ ecoSleeps s.cfg (s.ft.nextUpdate - (s.clock.now + d)) } := by
  have hahead : ¬ s.ft.nextUpdate ≤ s.clock.now + d := by omega
  simp only [limitFrame, readClock_of_supplied hticks, hahead, if_false, ecoSleep_eq]
  rw [holdClock_of_reading (readingsUntil_append hbelow hreach)]

/-- The vsync counter after a check (R258). -/
def vsyncLaces (s : State) : Nat :=
  if s.cfg.frameSkipEnabled then s.ft.laceCount + 1 else s.ft.laceCount

/-- R258: the limiting half limits when limiting is on and, in frame-skip mode, from the sixteenth
vsync on. -/
theorem checkLimit_eq (s : State) :
    checkLimit s =
      let t : State := { s with ft := { s.ft with laceCount := vsyncLaces s } }
      if s.cfg.frameLimitEnabled = true
          ∧ (s.cfg.frameSkipEnabled = true → 16 ≤ s.ft.laceCount + 1) then limitFrame t
      else t := by
  have hlace : Config.frameMaxLace = 16 := rfl
  cases hskip : s.cfg.frameSkipEnabled with
  | false => simp [checkLimit, vsyncLaces, hskip]
  | true => simp [checkLimit, vsyncLaces, hskip, hlace]

/-- The limiting half, by the readings it takes. -/
theorem checkLimit_of_takes {s : State} {now threshold : Nat} {ticks : List Nat}
    {sleeps : List Event} (h : limitTakes s now ticks threshold sleeps) :
    checkLimit s = { s with
      clock := ⟨now, ticks⟩
      ft := { s.ft with nextUpdate := threshold, laceCount := vsyncLaces s }
      events := s.events ++ sleeps } := by
  let t : State := { s with ft := { s.ft with laceCount := vsyncLaces s } }
  rw [checkLimit_eq]
  obtain ⟨hoff, rfl, rfl, rfl, rfl⟩ | ⟨hon, d, hticks, rfl, hlate, rfl, rfl⟩
    | ⟨hon, d, es, e, hticks, hbelow, rfl, hreach, rfl, hsleeps⟩ := h
  · rw [if_neg hoff, List.append_nil]
  · simp only [if_pos hon]
    rw [limitFrame_late (s := t) hticks hlate, List.append_nil]
  · simp only [if_pos hon]
    rw [limitFrame_early (s := t) hticks hbelow hreach, hsleeps]
    rfl

end Limit

/-- A `VSYNC` that only limits (R258, R263). -/
theorem exec_vsync_limits {s : State} {now threshold : Nat} {ticks : List Nat} {sleeps : List Event}
    (hopened : s.life = .opened) (hskip : s.cfg.frameSkipEnabled = false)
    (hfps : s.cfg.fpsDisplayEnabled = false) (h : limitTakes s now ticks threshold sleeps) :
    exec .vsync s = .next { s with
      stat := vsyncStat s
      vsyncReady := false
      clock := ⟨now, ticks⟩
      ft := { s.ft with nextUpdate := threshold }
      events := s.events ++ sleeps ++ if s.vsyncReady then [.render] else [] } := by
  let u : State := { s with stat := vsyncStat s }
  have hlaces : vsyncLaces u = s.ft.laceCount := if_neg (by simp [u, hskip])
  have hlimit : limitTakes u now ticks threshold sleeps := h
  rw [exec_vsync hopened, oddEvenAtVsync_eq, checkFrame_of_not (s := u) hskip hfps,
    checkLimit_of_takes hlimit, hlaces]
  exact congrArg Host.Outcome.next (presentOrSkip_of_no_skip hskip)

/-- Settles O57: the two branches of the limiting half, on either side of the threshold. -/
theorem vsyncLimits : Obligations.VsyncLimits := by
  intro d ds s hopened hlimit hskip hfps hticks now rem ms shown render
  have hon : s.cfg.frameLimitEnabled = true
      ∧ (s.cfg.frameSkipEnabled = true → 16 ≤ s.ft.laceCount + 1) :=
    ⟨hlimit, fun h => absurd (hskip.symm.trans h) Bool.false_ne_true⟩
  refine ⟨fun hlate => ?_, fun es fs e hds hbelow hreach => ?_⟩
  · rw [exec_vsync_limits hopened hskip hfps (.inr (.inl ⟨hon, d, hticks, rfl, hlate, rfl, rfl⟩)),
      List.append_nil]
    rfl
  · subst hds
    rw [exec_vsync_limits hopened hskip hfps
      (.inr (.inr ⟨hon, d, es, e, hticks, hbelow, rfl, hreach, rfl, rfl⟩))]
    rfl

/-! ## The measuring half -/

section Measure

/-- R256: the displayed copy, refreshed at most five times a second. -/
theorem refreshDisplay_eq (now : Nat) (s : State) :
    refreshDisplay now s =
      let refresh : Prop := s.cfg.ticksPerSecond ≤ 5 * (now - s.ft.lastDisplay)
      { s with ft := { s.ft with
          displayedFps := if refresh then s.ft.measuredFps else s.ft.displayedFps
          lastDisplay := if refresh then now else s.ft.lastDisplay } } := by
  unfold refreshDisplay
  by_cases h : s.cfg.ticksPerSecond ≤ 5 * (now - s.ft.lastDisplay)
  · simp only [h, if_true]
  · simp only [h, if_false]

/-- The frames to skip after a frame of `dur` ticks at a measured rate (R257). -/
def toSkip (s : State) (dur : Nat) (measured : Rat) : Nat :=
  if s.cfg.frameSkipEnabled = true ∧ s.ft.targetDuration < dur then
    skipCount s.ft.targetFps measured
  else 0

/-- R255 to R257: a measurement, by the reading it takes. -/
theorem measureFps_eq (s : State) :
    measureFps s =
      let now := (readClock s).1
      let t := (readClock s).2
      let dur := now - t.ft.lastMeasure
      let measured := measuredRate t.cfg dur t.freeCount
      let refresh : Prop := t.cfg.ticksPerSecond ≤ 5 * (now - t.ft.lastDisplay)
      { t with
        ft := { t.ft with
          lastMeasure := now
          measuredFps := measured
          displayedFps := if refresh then measured else t.ft.displayedFps
          lastDisplay := if refresh then now else t.ft.lastDisplay
          framesToSkip := toSkip t dur measured }
        freeCount := if dur = 0 then t.freeCount + 1 else t.freeCount } := by
  simp only [measureFps, refreshDisplay_eq, computeSkip, toSkip, Bool.and_eq_true,
    decide_eq_true_eq]

/-- R255: the rate of a frame that took time. -/
theorem measuredRate_of_pos {p : Params} {dur free : Nat} (hdur : 0 < dur) :
    measuredRate p dur free
      = if 250 * p.ticksPerSecond / 1000 < dur then 2 else (p.ticksPerSecond : Rat) / dur := by
  simp only [measuredRate, msTicks, Nat.ne_of_gt hdur, if_false]

/-- A measurement with the reading supplied and time gone by. -/
theorem measureFps_of_supplied {s : State} {d : Nat} {ds : List Nat}
    (hticks : s.clock.ticks = d :: ds) (htime : s.ft.lastMeasure < s.clock.now + d) :
    measureFps s =
      let now := s.clock.now + d
      let dur := now - s.ft.lastMeasure
      let measured : Rat :=
        if 250 * s.cfg.ticksPerSecond / 1000 < dur then 2 else (s.cfg.ticksPerSecond : Rat) / dur
      let refresh : Prop := s.cfg.ticksPerSecond ≤ 5 * (now - s.ft.lastDisplay)
      { s with
        clock := ⟨now, ds⟩
        ft := { s.ft with
          lastMeasure := now
          measuredFps := measured
          displayedFps := if refresh then measured else s.ft.displayedFps
          lastDisplay := if refresh then now else s.ft.lastDisplay
          framesToSkip := toSkip s dur measured } } := by
  have hdur : 0 < s.clock.now + d - s.ft.lastMeasure := by omega
  simp only [measureFps_eq, readClock_of_supplied hticks, measuredRate_of_pos hdur,
    Nat.ne_of_gt hdur, if_false]
  rfl

end Measure

/-! ## The rounding (R257, D37) -/

section Rounding

theorem roundsTo_of_nonneg {q : Rat} (hq : 0 ≤ q) (n : Int) :
    roundsTo q n ↔ n = ⌊q + 1 / 2⌋ := by
  rw [eq_comm, Int.floor_eq_iff]
  constructor
  · rintro ⟨hnear, htie⟩
    obtain ⟨hlow, hhigh⟩ := abs_le.1 hnear
    refine ⟨by linarith, lt_of_le_of_ne (by linarith) fun heq => ?_⟩
    have hhalf : q - n = 1 / 2 := by linarith
    have hlt := htie (by rw [hhalf, abs_of_nonneg (by norm_num)])
    have hn : -1 < n := by
      have hcast : ((-1 : Int) : Rat) < n := by
        push_cast
        linarith
      exact Int.cast_lt.1 hcast
    have hn' : (0 : Rat) ≤ n := Int.cast_nonneg (Int.add_one_le_iff.2 hn)
    rw [abs_of_nonneg hq, abs_of_nonneg hn'] at hlt
    linarith
  · rintro ⟨hlow, hhigh⟩
    refine ⟨abs_le.2 ⟨by linarith, by linarith⟩, fun htie => ?_⟩
    obtain hhalf | hhalf := (abs_eq (by norm_num)).1 htie
    · exact absurd hhalf (by linarith : q - n < 1 / 2).ne
    · have hn : (0 : Rat) ≤ n := by linarith
      rw [abs_of_nonneg hq, abs_of_nonneg hn]
      linarith

theorem roundsTo_neg (q : Rat) (n : Int) : roundsTo (-q) (-n) ↔ roundsTo q n := by
  have hdist : |-q - ((-n : Int) : Rat)| = |q - n| := by
    rw [Int.cast_neg, neg_sub_neg, abs_sub_comm]
  rw [roundsTo, roundsTo, hdist, Int.cast_neg, abs_neg, abs_neg]

theorem roundsTo_iff (q : Rat) (n : Int) : roundsTo q n ↔ n = roundHalfAway q := by
  by_cases hq : 0 ≤ q
  · rw [roundHalfAway, if_pos hq]
    exact roundsTo_of_nonneg hq n
  · rw [roundHalfAway, if_neg hq, ← roundsTo_neg, roundsTo_of_nonneg (by linarith)]
    exact neg_eq_iff_eq_neg

/-- R257: positive rates give a figure below 9/5, which rounds to 2 at most. -/
theorem skipCount_le_two {target measured : Rat} (ht : 0 < target) (hm : 0 < measured) :
    skipCount target measured ≤ 2 := by
  have hratio : (target - measured) / target < 1 := by
    rw [div_lt_one ht]
    linarith
  have hround : roundHalfAway (4 / 5 + (target - measured) / target) ≤ 2 := by
    unfold roundHalfAway
    split
    · have hfloor : ⌊4 / 5 + (target - measured) / target + 1 / 2⌋ < 3 := by
        rw [Int.floor_lt]
        push_cast
        linarith
      exact Int.lt_add_one_iff.1 hfloor
    · have hfloor : 0 ≤ ⌊-(4 / 5 + (target - measured) / target) + 1 / 2⌋ :=
        Int.floor_nonneg.2 (by linarith)
      exact (neg_nonpos.2 hfloor).trans (by decide)
  unfold skipCount
  omega

end Rounding

/-- Settles O58: the limiting half by its readings, then a measurement with the next. -/
theorem vsyncMeasuresAndSkips : Obligations.VsyncMeasuresAndSkips := by
  refine ⟨roundsTo_iff, ?_⟩
  intro now1 d threshold ds sleeps s hopened hmeasures hlimit htime _ now dur measured refresh
    toSkip dropped
  let u : State := { s with stat := vsyncStat s }
  have hlimit' : limitTakes u now1 (d :: ds) threshold sleeps := hlimit
  rw [exec_vsync hopened, oddEvenAtVsync_eq, checkFrame_of_measures (s := u) hmeasures,
    checkLimit_of_takes hlimit', measureFps_of_supplied rfl htime, presentOrSkip_eq]
  rfl

/-- Settles O59: the rates of a measurement are positive. -/
theorem framesToSkipAtMostTwo : Obligations.FramesToSkipAtMostTwo := by
  intro s hinv hopened hmeasures
  have halive : s.life ≠ .off := by simp [hopened]
  let u : State := { s with stat := vsyncStat s }
  obtain ⟨-, hlimit⟩ := checkLimit_spec u
  have htarget : 0 < (checkLimit u).ft.targetFps := by
    rw [hlimit]
    exact (hinv.rates halive).target
  have hparams : paramsOk (checkLimit u).cfg = true := by
    rw [hlimit]
    exact hinv.params halive
  obtain ⟨-, -, hread⟩ := readClock_spec (checkLimit u)
  have hskip : (measureFps (checkLimit u)).ft.framesToSkip ≤ 2 := by
    simp only [measureFps_eq, toSkip]
    rw [hread]
    split
    · exact skipCount_le_two htarget (measuredRate_pos hparams _ _)
    · exact Nat.zero_le 2
  rw [exec_vsync hopened, oddEvenAtVsync_eq, checkFrame_of_measures (s := u) hmeasures]
  refine ⟨_, rfl, ?_⟩
  rw [presentOrSkip_frame]
  exact hskip

end Sys2Proof.Machine

/-! PROOFS. Which transactions write what (10_state.md R26, R33, R39; 20_memory.md R81;
44_frame_timer.md R240; 60_exceptions.md R283): most leave every item named there, and the few that
do not are taken one by one. -/

namespace Sys2Proof.Machine

/-! ## Transactions that leave every item named -/

/-- A bit of 31:16 that lies in no named field of `STAT`. -/
def UnnamedBit (l : StatLayout) (k : Nat) : Prop :=
  16 ≤ k ∧ ∀ f : StatField, k < fieldLo l f ∨ fieldLo l f + fieldWidth f ≤ k

/-- `t` is `s` in every item that has an owner, and in the status bits without a name. -/
structure Bystander (s t : State) : Prop where
  frame : t = { s with
    life := t.life, stat := t.stat, ctl := t.ctl, gdata := t.gdata, info := t.info
    inMode := t.inMode, outMode := t.outMode, cin := t.cin, cout := t.cout, vram := t.vram
    vsyncReady := t.vsyncReady, busy := t.busy, geo := t.geo, ft := t.ft, backend := t.backend
    events := t.events, answer := t.answer, freeCount := t.freeCount }
  bits : ∀ k, UnnamedBit s.cfg.statLayout k → t.stat.getLsbD k = s.stat.getLsbD k

section Bystander

variable {s t u : State}

theorem Bystander.refl (s : State) : Bystander s s := ⟨rfl, fun _ _ => rfl⟩

theorem Bystander.trans (h : Bystander s t) (h' : Bystander t u) : Bystander s u where
  frame := by rw [h'.frame, h.frame]
  bits k hk := by
    have hcfg : t.cfg = s.cfg := by rw [h.frame]
    exact (h'.bits k (hcfg ▸ hk)).trans (h.bits k hk)

theorem Bystander.reply (h : Bystander s t) (a : Answer) : Bystander s (reply a t) :=
  h.trans ⟨rfl, fun _ _ => rfl⟩

/-- A bit without a name is not the one of a flag. -/
theorem UnnamedBit.ne {l : StatLayout} {k : Nat} (h : UnnamedBit l k) {f : StatField}
    (hone : fieldOnes f = 1) : k ≠ fieldLo l f := by
  have hout := h.2 f
  rw [fieldWidth_of_one hone] at hout
  omega

theorem bystander_of_eq (ht : Host.Outcome.next u = (.next t : Res State)) (h : Bystander s u) :
    Bystander s t := by
  rw [Host.Outcome.next.injEq] at ht
  exact ht ▸ h

theorem alive_of_exec {i : Instr} (ht : exec i s = .next t) (hi : ∀ b, i ≠ .init b) :
    s.life ≠ .off := by
  intro hoff
  rw [exec_of_off hoff hi] at ht
  cases ht

/-! ### Commands -/

/-- A command but Reset writes only named bits. -/
theorem commandMask_unnamed {l : StatLayout} {i : Instr} (hi : ∀ param, i ≠ .wsReset param)
    {k : Nat} (hk : k < 32) (hbit : UnnamedBit l k) : (commandMask l i).getLsbD k = false := by
  have hfield (f : StatField) : (fieldMask l f).getLsbD k = false := by
    have hout := hbit.2 f
    rw [fieldMask_getLsbD l f hk, decide_eq_false_iff_not]
    omega
  cases i with
  | wsReset param => exact absurd rfl (hi param)
  | wsDisplay _ _ => exact hfield .displayDisabled
  | wsMode _ _ => exact hfield .dmaDirection
  | wsInfo _ _ _ _ _ _ _ _ =>
    simp only [commandMask, infoMask, BitVec.getLsbD_or, hfield, Bool.or_self]
  | _ => exact BitVec.getLsbD_zero

theorem command_frame {i : Instr} (hi : IsCommand i) (ht : exec i s = .next t) :
    ∃ w, t = commandEffect i (storeCtl w s) := by
  rw [hi, whenAlive_eq_next, Host.Outcome.next.injEq] at ht
  obtain ⟨-, ht⟩ := ht
  exact ⟨_, ht.symm⟩

theorem bystander_command {i : Instr} (hi : IsCommand i) (hreset : ∀ param, i ≠ .wsReset param)
    (ht : exec i s = .next t) : Bystander s t := by
  obtain ⟨w, rfl⟩ := command_frame hi ht
  have hframe : CommandFrame (storeCtl w s) (commandEffect i (storeCtl w s)) :=
    commandEffect_frame _ _
  unfold CommandFrame at hframe
  refine ⟨by rw [hframe]; rfl, fun k hbit => ?_⟩
  rw [commandEffect_stat]
  by_cases hk : k < 32
  · exact commandStat_outside _ i s.stat hk (commandMask_unnamed hreset hk hbit)
  · rw [BitVec.getLsbD_of_ge _ _ (by omega), BitVec.getLsbD_of_ge _ _ (by omega)]

/-! ### The data port and the back end -/

theorem bystander_runCall {c : BackendCall} (ht : runCall c s = .next t) : Bystander s t :=
  ⟨by rw [runCall_frame ht],
    fun _ hbit => runCall_stat_outside ht hbit.1 (hbit.ne (f := .readyForVram) rfl)⟩

theorem bystander_writeChunk {ws : List Word} (ht : writeChunk ws s = .next t) : Bystander s t := by
  obtain ⟨-, hbits⟩ := writeChunk_keepsOtherBits ht
  refine ⟨by rw [writeChunk_frame ht], fun k hbit => ?_⟩
  by_cases hk : k < 32
  · refine and_not_eq_iff.1 hbits k hk ?_
    have hready : k ≠ s.cfg.statLayout.readyForVram := hbit.ne (f := .readyForVram) rfl
    rw [writePathBits, BitVec.getLsbD_or, lowBits_getLsbD hk, bitAt_getLsbD _ hk,
      decide_eq_false (Nat.not_lt.2 hbit.1), decide_eq_false hready]
    rfl
  · rw [BitVec.getLsbD_of_ge _ _ (by omega), BitVec.getLsbD_of_ge _ _ (by omega)]

theorem bystander_writeWord {w : Word} (ht : writeWord w s = .next t) : Bystander s t :=
  bystander_writeChunk ((writeChunk_one w s).trans ht)

theorem bystander_finishRead (s : State) : Bystander s (finishRead s) :=
  ⟨rfl, fun _ hbit => putField_getLsbD_outside (hbit.2 .readyForVram)⟩

theorem bystander_produceWord {w : Word} (ht : produceWord s = .next (w, t)) : Bystander s t := by
  obtain ⟨-, -, rfl⟩ := produceWord_eq_next ht
  have hmoved (c : Cursor) : Bystander s { setGdata w s with cin := c } := ⟨rfl, fun _ _ => rfl⟩
  simp only
  split
  · exact (hmoved _).trans (bystander_finishRead _)
  · exact hmoved _

theorem bystander_readChunk {n : Nat} {ws : List Word} (ht : readChunk n s = .next (ws, t)) :
    Bystander s t :=
  readChunk_keeps (P := Bystander s) (fun u hu => hu.trans (bystander_finishRead u))
    (fun _ _ _ hu hv => hu.trans (bystander_produceWord hv)) (Bystander.refl s) ht

theorem bystander_readPort (ht : readPort s = .next t) : Bystander s t := by
  obtain ⟨r, hread, hreply⟩ := andThen_eq_next.1 ht
  rw [Host.Outcome.next.injEq] at hreply
  rw [← hreply]
  exact (bystander_readChunk hread).reply _

theorem bystander_readReply {n : Nat} (ht : readReply n s = .next t) : Bystander s t := by
  obtain ⟨r, hread, hreply⟩ := andThen_eq_next.1 ht
  rw [Host.Outcome.next.injEq] at hreply
  rw [← hreply]
  exact (bystander_readChunk hread).reply _

/-! ### The chain walker -/

theorem bystander_chainWalk {n : Nat} {k : Walk} (ht : chainWalk n k s = .next t) : Bystander s t :=
  chainWalk_keeps (P := Bystander s) (fun _ _ _ hu hv => hu.trans (bystander_writeChunk hv)) n
    (Bystander.refl s) ht

theorem bystander_walkFromHeader {node : Addr} {hdr : Word}
    (ht : walkFromHeader node hdr s = .next t) : Bystander s t :=
  walkFromHeader_keeps (P := Bystander s) (fun _ _ _ hu hv => hu.trans (bystander_writeChunk hv))
    (Bystander.refl s) ht

end Bystander

/-! ## The owners -/

/-- What transaction `i` may write of the items that have an owner. -/
structure Owners (i : Instr) (s t : State) : Prop where
  sysMem : t.sysMem = s.sysMem
  cfgSource : t.cfgSource = s.cfgSource
  requests : t.requests = s.requests
  imgSize : t.img.size = s.img.size
  cfg : (∀ b, i ≠ .init b) → t.cfg = s.cfg
  img : i ≠ .frzGet → i ≠ .frz 1 → t.img = s.img
  clock : i ≠ .openPort → i ≠ .vsync → t.clock = s.clock
  saveSlot : (∀ b, i ≠ .init b) → i ≠ .frzInfo → i ≠ .frz 2 → t.saveSlot = s.saveSlot
  rdcnt : (∀ b, i ≠ .init b) → i ≠ .rs → t.rdcnt = s.rdcnt
  bits : (∀ b, i ≠ .init b) → (∀ param, i ≠ .wsReset param) → i ≠ .frzSet → i ≠ .frz 0 →
    ∀ k, UnnamedBit s.cfg.statLayout k → t.stat.getLsbD k = s.stat.getLsbD k

section Owners

variable {i : Instr} {s t : State}

theorem Bystander.owners (h : Bystander s t) : Owners i s t where
  sysMem := by rw [h.frame]
  cfgSource := by rw [h.frame]
  requests := by rw [h.frame]
  imgSize := by rw [h.frame]
  cfg := fun _ => by rw [h.frame]
  img := fun _ _ => by rw [h.frame]
  clock := fun _ _ => by rw [h.frame]
  saveSlot := fun _ _ _ => by rw [h.frame]
  rdcnt := fun _ _ => by rw [h.frame]
  bits := fun _ _ _ _ => h.bits

/-- Reset writes all of `STAT`. -/
theorem owners_reset {param : BitVec 24} (ht : exec (.wsReset param) s = .next t) :
    Owners (.wsReset param) s t := by
  obtain ⟨w, rfl⟩ := command_frame (fun _ => rfl) ht
  exact ⟨rfl, rfl, rfl, rfl, fun _ => rfl, fun _ _ => rfl, fun _ _ => rfl, fun _ _ _ => rfl,
    fun _ _ => rfl, fun _ h => absurd rfl (h param)⟩

/-- A status read counts, and flips at most `OddLines`. -/
theorem owners_rs (ht : exec .rs s = .next t) : Owners .rs s t := by
  rw [exec_rs (alive_of_exec ht nofun), Host.Outcome.next.injEq] at ht
  rw [← ht]
  refine ⟨rfl, rfl, rfl, rfl, fun _ => rfl, fun _ _ => rfl, fun _ _ => rfl, fun _ _ _ => rfl,
    fun _ h => absurd rfl h, fun _ _ _ _ k hbit => ?_⟩
  by_cases hk : k < 32
  · refine and_not_eq_iff.1 (afterRs_others s) k hk ?_
    simp only [readyMask, BitVec.getLsbD_or, bitAt_getLsbD _ hk, Bool.or_eq_false_iff,
      decide_eq_false_iff_not]
    exact ⟨⟨hbit.ne (f := .readyForCommands) rfl, hbit.ne (f := .idle) rfl⟩,
      hbit.ne (f := .oddLines) rfl⟩
  · rw [BitVec.getLsbD_of_ge _ _ (by omega), BitVec.getLsbD_of_ge _ _ (by omega)]

/-- A mode of `FREEZE` with a version either does its work or answers 0. -/
theorem versionedMode_eq_next {work : State → State} (ht : versionedMode work s = .next t) :
    (∃ a, t = reply a (work s)) ∨ ∃ a, t = reply a s := by
  obtain ⟨-, ht⟩ := needImage_eq_next.1 ht
  split at ht
  · rw [Host.Outcome.next.injEq] at ht
    exact .inl ⟨_, ht.symm⟩
  · rw [Host.Outcome.next.injEq] at ht
    exact .inr ⟨_, ht.symm⟩

theorem owners_get (hi : i = .frzGet ∨ i = .frz 1) (ht : versionedMode freezeGet s = .next t) :
    Owners i s t := by
  obtain ⟨a, rfl⟩ | ⟨a, rfl⟩ := versionedMode_eq_next ht
  · exact ⟨rfl, rfl, rfl, rfl, fun _ => rfl, fun h h' => (hi.elim h h').elim, fun _ _ => rfl,
      fun _ _ _ => rfl, fun _ _ => rfl, fun _ _ _ _ _ _ => rfl⟩
  · exact ((Bystander.refl s).reply a).owners

theorem owners_set (hi : i = .frzSet ∨ i = .frz 0) (ht : versionedMode freezeSet s = .next t) :
    Owners i s t := by
  obtain ⟨a, rfl⟩ | ⟨a, rfl⟩ := versionedMode_eq_next ht
  · rw [freezeSet_frame]
    exact ⟨rfl, rfl, rfl, rfl, fun _ => rfl, fun _ _ => rfl, fun _ _ => rfl, fun _ _ _ => rfl,
      fun _ _ => rfl, fun _ _ h h' => (hi.elim h h').elim⟩
  · exact ((Bystander.refl s).reply a).owners

theorem owners_info (hi : i = .frzInfo ∨ i = .frz 2) (ht : freezeInfoMode s = .next t) :
    Owners i s t := by
  obtain ⟨-, ht⟩ := needImage_eq_next.1 ht
  rw [Host.Outcome.next.injEq] at ht
  rw [← ht, freezeInfo]
  split
  · exact ⟨rfl, rfl, rfl, rfl, fun _ => rfl, fun _ _ => rfl, fun _ _ => rfl,
      fun _ h h' => (hi.elim h h').elim, fun _ _ => rfl, fun _ _ _ _ _ _ => rfl⟩
  · exact ((Bystander.refl s).reply _).owners

theorem owners_unknown (ht : unknownMode s = .next t) : Owners i s t :=
  (bystander_of_eq ht ((Bystander.refl s).reply _)).owners

theorem owners_frz {mode : Word} (ht : freezeByMode mode s = .next t) : Owners (.frz mode) s t := by
  by_cases h2 : mode = 2
  · subst h2
    exact owners_info (.inr rfl) ht
  · by_cases h1 : mode = 1
    · subst h1
      exact owners_get (.inr rfl) ht
    · by_cases h0 : mode = 0
      · subst h0
        exact owners_set (.inr rfl) ht
      · rw [freezeByMode_unknown h0 h1 h2] at ht
        exact owners_unknown ht

theorem owners_init {b : Bool} (ht : exec (.init b) s = .next t) : Owners (.init b) s t := by
  have hsame : ∃ u : State, t = u ∧ u.sysMem = s.sysMem ∧ u.cfgSource = s.cfgSource
      ∧ u.requests = s.requests ∧ u.img = s.img ∧ u.clock = s.clock := by
    have ht : execInit b s = .next t := ht
    unfold execInit at ht
    obtain ⟨-, ht⟩ := whenLife_eq_next.1 ht
    split at ht
    · split at ht
      · rw [Host.Outcome.next.injEq] at ht
        exact ⟨_, ht.symm, rfl, rfl, rfl, rfl, rfl⟩
      · cases ht
    · rw [Host.Outcome.next.injEq] at ht
      exact ⟨_, ht.symm, rfl, rfl, rfl, rfl, rfl⟩
  obtain ⟨u, rfl, hsysMem, hcfgSource, hrequests, himg, hclock⟩ := hsame
  exact ⟨hsysMem, hcfgSource, hrequests, congrArg Image.size himg, fun h => absurd rfl (h b),
    fun _ _ => himg, fun _ _ => hclock, fun h => absurd rfl (h b), fun h => absurd rfl (h b),
    fun h => absurd rfl (h b)⟩

theorem owners_open (ht : exec .openPort s = .next t) : Owners .openPort s t := by
  have hopen : execOpenPort s = .next t := ht
  unfold execOpenPort at hopen
  obtain ⟨hready, -⟩ := whenLife_eq_next.1 hopen
  rw [exec_openPort hready, Host.Outcome.next.injEq] at ht
  rw [← ht, openedState_frame]
  exact ⟨rfl, rfl, rfl, rfl, fun _ => rfl, fun _ _ => rfl, fun h => absurd rfl h, fun _ _ _ => rfl,
    fun _ _ => rfl, fun _ _ _ _ _ _ => rfl⟩

theorem owners_vsync (ht : exec .vsync s = .next t) : Owners .vsync s t := by
  have hvsync : execVsync s = .next t := ht
  unfold execVsync at hvsync
  obtain ⟨hopened, -⟩ := whenLife_eq_next.1 hvsync
  obtain ⟨u, hu, -, hframe⟩ := vsyncFrame s hopened
  rw [hu, Host.Outcome.next.injEq] at ht
  rw [← ht, hframe]
  refine ⟨rfl, rfl, rfl, rfl, fun _ => rfl, fun _ _ => rfl, fun _ h => absurd rfl h,
    fun _ _ _ => rfl, fun _ _ => rfl, fun _ _ _ _ k hbit => ?_⟩
  simp only
  split
  · rfl
  · have hodd : k ≠ s.cfg.statLayout.oddLines := hbit.ne (f := .oddLines) rfl
    by_cases hk : k < 32
    · rw [BitVec.getLsbD_xor, bitAt_getLsbD _ hk, decide_eq_false hodd, Bool.xor_false]
    · rw [BitVec.getLsbD_of_ge _ _ (by omega), BitVec.getLsbD_of_ge _ _ (by omega)]

theorem owners_close (ht : exec .closePort s = .next t) : Owners .closePort s t := by
  have hclose : execClosePort s = .next t := ht
  unfold execClosePort at hclose
  obtain ⟨-, hnext⟩ := whenLife_eq_next.1 hclose
  have hkept : Bystander s t := bystander_of_eq hnext ⟨rfl, fun _ _ => rfl⟩
  exact hkept.owners

theorem owners_shutdown (ht : exec .shutdown s = .next t) : Owners .shutdown s t := by
  have hshutdown : execShutdown s = .next t := ht
  unfold execShutdown at hshutdown
  obtain ⟨-, hnext⟩ := whenLife_eq_next.1 hshutdown
  have hkept : Bystander s t := bystander_of_eq hnext ⟨rfl, fun _ _ => rfl⟩
  exact hkept.owners

/-- Each transaction, by its own rule. -/
theorem exec_owners (i : Instr) (s t : State) (ht : exec i s = .next t) : Owners i s t := by
  cases i with
  | wsReset param => exact owners_reset ht
  | rs => exact owners_rs ht
  | init b => exact owners_init ht
  | openPort => exact owners_open ht
  | vsync => exact owners_vsync ht
  | closePort => exact owners_close ht
  | shutdown => exact owners_shutdown ht
  | frzGet => exact owners_get (.inl rfl) (whenAlive_eq_next.1 ht).2
  | frzSet => exact owners_set (.inl rfl) (whenAlive_eq_next.1 ht).2
  | frzInfo => exact owners_info (.inl rfl) (whenAlive_eq_next.1 ht).2
  | frzOther mode => exact owners_unknown (whenAlive_eq_next.1 ht).2
  | frz mode => exact owners_frz (whenAlive_eq_next.1 ht).2
  | wdPixels hi lo => exact (bystander_writeWord (whenAlive_eq_next.1 ht).2).owners
  | wdNormal w => exact (bystander_writeWord (whenAlive_eq_next.1 ht).2).owners
  | wd w => exact (bystander_writeChunk (whenAlive_eq_next.1 ht).2).owners
  | wdm ws => exact (bystander_writeChunk (whenAlive_eq_next.1 ht).2).owners
  | rd => exact (bystander_readPort (whenAlive_eq_next.1 ht).2).owners
  | rdPixels => exact (bystander_readPort (whenAlive_eq_next.1 ht).2).owners
  | rdReply => exact (bystander_readPort (whenAlive_eq_next.1 ht).2).owners
  | rdm n =>
    rw [exec_rdm (alive_of_exec ht nofun)] at ht
    exact (bystander_readReply ht).owners
  | chain start => exact (bystander_chainWalk (whenAlive_eq_next.1 ht).2).owners
  | chainNode node count next =>
    exact (bystander_walkFromHeader (whenAlive_eq_next.1 ht).2).owners
  | chainEnd node count => exact (bystander_walkFromHeader (whenAlive_eq_next.1 ht).2).owners
  | areaIn x y w h =>
    exact (bystander_runCall (c := .defineArea .input (intOperand x) (intOperand y) (intOperand w)
      (intOperand h)) (whenAlive_eq_next.1 ht).2).owners
  | areaOut x y w h =>
    exact (bystander_runCall (c := .defineArea .output (intOperand x) (intOperand y) (intOperand w)
      (intOperand h)) (whenAlive_eq_next.1 ht).2).owners
  | kick =>
    rw [exec_of_alive (k := runCall .busyKick) (alive_of_exec ht nofun) rfl] at ht
    exact (bystander_runCall ht).owners
  | statSet m => exact (bystander_runCall (c := .statSet m) (whenAlive_eq_next.1 ht).2).owners
  | statClr m => exact (bystander_runCall (c := .statClr m) (whenAlive_eq_next.1 ht).2).owners
  | infoStore e v =>
    rw [exec_of_alive (k := runCall (.infoStore e v)) (alive_of_exec ht nofun) rfl] at ht
    exact (bystander_runCall ht).owners
  | _ => exact (bystander_command (fun _ => rfl) (fun _ h => by cases h) ht).owners

end Owners

/-- Settles O60: what each transaction writes of the items that have an owner. -/
theorem stateOwners : Obligations.StateOwners := by
  intro i s t ht
  have h := exec_owners i s t ht
  exact ⟨h.sysMem, h.cfgSource, h.requests, h.imgSize, h.cfg, h.img, h.clock, h.saveSlot, h.rdcnt,
    fun hinit hreset hset hzero k hhigh hnamed =>
      h.bits hinit hreset hset hzero k ⟨hhigh, hnamed⟩⟩

end Sys2Proof.Machine
